-- ==== Sys2Proof/Word.lean ====
section
/-! DEFINITION. The bit-vector types of the block: bytes, bits, and register elements that may hold no value. -/

namespace Sys2Proof

/-- A byte: an operand character, a synthesizer register address, a bus datum (00_scope.md R7, 20_memory.md R40). -/
abbrev Byte := BitVec 8

/-- A one-bit value: an element of `FEC`, `ILV`, `SYNC` (10_state.md R11). -/
abbrev Bit := BitVec 1

/-- A register element of width `w` with its written-bit: `none` is an element that holds no value, as 10_state.md
R12 asks ("A model represents such an element as an option type with the value absent"). -/
abbrev Reg (w : Nat) := Option (BitVec w)

end Sys2Proof
end

