-- ==== Sys2Proof/Syntax.lean ====
section
/-! DEFINITION. The ten operations, one constructor per row of spec/opcode_table.json, with the fields the command
byte carries. -/

namespace Sys2Proof

/-- A command (30_encoding.md R61). `pll` is the bit `p`, `ch` the two bits `nn`, of which the value 3 is not legal. -/
inductive Instr where
  | pack
  | conv
  | ilv
  | merge
  | encode
  | brev
  | pllcfg (pll : Bit)
  | mscfg (ch : BitVec 2)
  | drvcfg (ch : BitVec 2)
  | tone (ch : BitVec 2) (pll : Bit)
  deriving DecidableEq, Repr

end Sys2Proof
end

