-- ==== Sys2Proof/WellFormed.lean ====
section
/-! DEFINITION. Which commands are well formed: the conditions of 30_encoding.md R61 and R63 on `sel` that the field
widths do not already give. -/

namespace Sys2Proof

/-- "`nn != 0b11`": WB's `channel in {0,1,2}` (30_encoding.md R63). -/
abbrev channelOk (ch : BitVec 2) : Prop := ch ≠ 3

/-- A command the encoding admits (30_encoding.md R61, R63). -/
def Instr.wf : Instr → Bool
  | .pack => true
  | .conv => true
  | .ilv => true
  | .merge => true
  | .encode => true
  | .brev => true
  | .pllcfg _ => true
  | .mscfg ch => decide (channelOk ch)
  | .drvcfg ch => decide (channelOk ch)
  | .tone ch _ => decide (channelOk ch)

end Sys2Proof
end

