-- ==== Sys2Proof/Decode.lean ====
section
/-! DEFINITION. The decoder of the command byte, total, rejecting by name; the encoder; and the host's view of the
decoder by the numbering of spec/opcode_table.json. -/

namespace Sys2Proof

/-- Why a byte is no command (30_encoding.md R64): its `op` is in no row, or its `sel` breaks the row's condition.
Either is `IllegalCommand` (60_exceptions.md R189). -/
inductive DecodeError where
  | reservedOp
  | reservedSel
  deriving DecidableEq, Repr

/-- `CMD[7:4]` (30_encoding.md R60). -/
def opField (b : Byte) : BitVec 4 := b.extractLsb' 4 4

/-- `CMD[3:0]` (30_encoding.md R60). -/
def selField (b : Byte) : BitVec 4 := b.extractLsb' 0 4

/-- `sel` must be 0: the six ENC operations (R63). -/
def decodePlain (i : Instr) (sel : BitVec 4) : Except DecodeError Instr :=
  if sel = 0 then .ok i else .error .reservedSel

/-- `pll := sel[0]`, `sel[3:1]` must be 0 (R63). -/
def decodePll (sel : BitVec 4) : Except DecodeError Instr :=
  if sel.extractLsb' 1 3 = 0 then .ok (.pllcfg (sel.extractLsb' 0 1)) else .error .reservedSel

/-- `ch := sel[1:0]`, not 3, `sel[3:2]` must be 0 (R63). -/
def decodeChannel (f : BitVec 2 → Instr) (sel : BitVec 4) : Except DecodeError Instr :=
  if sel.extractLsb' 2 2 = 0 ∧ channelOk (sel.extractLsb' 0 2) then .ok (f (sel.extractLsb' 0 2))
  else .error .reservedSel

/-- `ch := sel[1:0]`, not 3, `pll := sel[2]`, `sel[3]` must be 0 (R63). -/
def decodeTone (sel : BitVec 4) : Except DecodeError Instr :=
  if sel.extractLsb' 3 1 = 0 ∧ channelOk (sel.extractLsb' 0 2) then
    .ok (.tone (sel.extractLsb' 0 2) (sel.extractLsb' 2 1))
  else .error .reservedSel

/-- The opcode map, 30_encoding.md R61. -/
def decode (b : Byte) : Except DecodeError Instr :=
  match (opField b).toNat with
  | 0x1 => decodePlain .pack (selField b)
  | 0x2 => decodePlain .conv (selField b)
  | 0x3 => decodePlain .ilv (selField b)
  | 0x4 => decodePlain .merge (selField b)
  | 0x5 => decodePlain .encode (selField b)
  | 0x6 => decodePlain .brev (selField b)
  | 0x8 => decodePll (selField b)
  | 0x9 => decodeChannel .mscfg (selField b)
  | 0xA => decodeChannel .drvcfg (selField b)
  | 0xB => decodeTone (selField b)
  | _ => .error .reservedOp

/-- The command byte of an instruction, from the "bytes" of 30_encoding.md R61 and R65: `{op, sel}`. -/
def encode : Instr → Byte
  | .pack => 0x10
  | .conv => 0x20
  | .ilv => 0x30
  | .merge => 0x40
  | .encode => 0x50
  | .brev => 0x60
  | .pllcfg pll => 0x8#4 ++ (0#3 ++ pll)
  | .mscfg ch => 0x9#4 ++ (0#2 ++ ch)
  | .drvcfg ch => 0xA#4 ++ (0#2 ++ ch)
  | .tone ch pll => 0xB#4 ++ (0#1 ++ pll ++ ch)

/-- The instruction the decoder reads from a table row's `nbits` bits `w`: every command is one byte, so a longer
word is no command, and the bits above `nbits` are 0. -/
def decodeTableWord (nbits w : Nat) : Option Instr :=
  if nbits ≤ 8 then (decode (BitVec.ofNat 8 (w % 2 ^ nbits))).toOption else none

end Sys2Proof
end

