-- ==== Sys2Proof/Config.lean ====
section
/-! DEFINITION. The parameters of the block: those WB fixes (00_scope.md R5), those it leaves open (R6) as a record
with its well-formedness, and the free values, which are opaque constants nothing can evaluate. -/

namespace Sys2Proof
namespace Config

/-! ### Constants (00_scope.md R5; `CALL_MAX` of R6, decided by D13) -/

/-- `NSYM`: symbols of a message, bits of the FEC stream. -/
abbrev nSym : Nat := 162
/-- `NBITS`: message bits the convolutional encoder consumes. -/
abbrev nBits : Nat := 81
/-- `CALL_MAX`, decided 16 (D13). -/
abbrev callMax : Nat := 16
/-- `POLY0`: tap mask of `R0`. -/
abbrev poly0 : BitVec 32 := 0xF2D05351#32
/-- `POLY1`: tap mask of `R1`. -/
abbrev poly1 : BitVec 32 := 0xE4613C47#32
/-- `PLL_A_MIN`. -/
abbrev pllAMin : Nat := 15
/-- `PLL_A_MAX`. -/
abbrev pllAMax : Nat := 90
/-- `MS_A_MIN`. -/
abbrev msAMin : Nat := 4
/-- `MS_A_MAX`. -/
abbrev msAMax : Nat := 2048
/-- `BC_MAX`: the largest legal numerator and denominator. -/
abbrev bcMax : Nat := 0xFFFFF
/-- `IMG_N`: bytes of one divider image. -/
abbrev imgN : Nat := 8
/-- `REG_CEIL`: synthesizer registers from this number on are never written (20_memory.md R46). -/
abbrev regCeil : Nat := 200

end Config

/-! ### Open parameters (00_scope.md R6) -/

/-- One record of `BANDTAB` (44_synth_driver_tone.md R165): base PLL integer part, base numerator, denominator,
fixed output divider, and numerator LSBs per hertz. -/
structure BandEntry where
  pllA  : Nat
  baseB : Nat
  pllC  : Nat
  msDiv : Nat
  scale : Rat
  deriving DecidableEq, Repr, Inhabited

/-- The constraints 00_scope.md R6 puts on a band record. -/
abbrev BandEntry.wf (e : BandEntry) : Prop :=
  (Config.pllAMin ≤ e.pllA ∧ e.pllA ≤ Config.pllAMax) ∧ e.baseB ≤ Config.bcMax ∧
  (0 < e.pllC ∧ e.pllC ≤ Config.bcMax) ∧ (Config.msAMin ≤ e.msDiv ∧ e.msDiv ≤ Config.msAMax) ∧ 0 < e.scale

/-- `HzRepr`: the representation of `OFFS` and `CORR`. Its width is open and so is the rational each bit pattern
denotes: `listed` gives it for some patterns, and a pattern not listed denotes the free value `Config.hzUnlisted` of
it. Every representation is of this form (assumption log 3). -/
structure HzRepr where
  width  : Nat
  listed : List (Nat × Rat)
  deriving DecidableEq, Repr, Inhabited

/-- The open parameters as plain data: the image base addresses, the control register addresses, the band table (an
absent key is an unsupported band) and the representation of hertz. -/
structure Params where
  pllBase : Vector Byte 2
  msBase  : Vector Byte 3
  clkCtrl : Vector Byte 3
  bandTab : List (Byte × BandEntry)
  hz      : HzRepr
  deriving DecidableEq, Repr, Inhabited

/-- The first addresses of the five divider images. -/
abbrev Params.imageBases (p : Params) : List Nat := (p.pllBase.toList ++ p.msBase.toList).map BitVec.toNat

/-- The control register addresses. -/
abbrev Params.ctrlRegs (p : Params) : List Nat := p.clkCtrl.toList.map BitVec.toNat

/-- A well-formed configuration (00_scope.md R6, 20_memory.md R46): every address the block can write is below 200,
image ranges do not overlap, control registers are distinct and outside every image; the band table is a map with at
least two keys and records inside their bounds; `HzRepr` lists a pattern once. -/
abbrev Params.wf (p : Params) : Prop :=
  (∀ b ∈ p.imageBases, b + 7 < Config.regCeil) ∧
  p.imageBases.Pairwise (fun x y => x + 8 ≤ y ∨ y + 8 ≤ x) ∧
  (∀ r ∈ p.ctrlRegs, r < Config.regCeil) ∧
  p.ctrlRegs.Nodup ∧
  (∀ r ∈ p.ctrlRegs, ∀ b ∈ p.imageBases, r < b ∨ b + 8 ≤ r) ∧
  2 ≤ p.bandTab.length ∧
  (p.bandTab.map Prod.fst).Nodup ∧
  (∀ e ∈ p.bandTab, e.2.wf) ∧
  (p.hz.listed.map Prod.fst).Nodup

/-- A well-formed example of the open parameters: the default addresses of 00_scope.md R6 (G5: general knowledge, for
examples only) and two illustrative band records of vector V25. No rule and no statement rests on it: it only shows
that a well-formed configuration exists. -/
def Params.sample : Params where
  pllBase := #v[26, 34]
  msBase  := #v[42, 50, 58]
  clkCtrl := #v[16, 17, 18]
  bandTab := [(0x14, ⟨28, 200052, 1023890, 50, 256 / 375⟩), (0x28, ⟨30, 500000, 1000000, 100, 1 / 2⟩)]
  hz      := ⟨32, []⟩

/-- Open parameters together with the proof that they are well formed: an ill-formed configuration cannot be built,
so it gets no meaning (20_memory.md R46, U20). -/
structure WfParams where
  raw : Params := Params.sample
  ok  : raw.wf := by decide +kernel
  deriving DecidableEq, Repr, Inhabited

/-- The configuration of the block: the sync vector (a parameter with a decided default, D15) and the open
parameters. It is not state (10_state.md R10): no step changes it. -/
structure Config where
  sync : Vector Bit Config.nSym
  par  : WfParams
  deriving DecidableEq, Repr

namespace Config

/-- The rows of the table of 42_interleaver_sync_merge.md R127, eighteen elements each. PRESUMED by the spec itself
(G1: general knowledge, not in its source); assumption log 2. -/
def syncRows : List (List Bit) := [
  [1, 1, 0, 0, 0, 0, 0, 0, 1, 0, 0, 0, 1, 1, 1, 0, 0, 0],
  [1, 0, 0, 1, 0, 1, 1, 1, 1, 0, 0, 0, 0, 0, 0, 0, 1, 0],
  [0, 1, 0, 1, 0, 0, 0, 0, 0, 0, 1, 0, 1, 1, 0, 0, 1, 1],
  [0, 1, 0, 0, 0, 1, 1, 0, 1, 0, 0, 0, 0, 1, 1, 0, 1, 0],
  [1, 0, 1, 0, 1, 0, 0, 1, 0, 0, 1, 0, 1, 1, 0, 0, 0, 1],
  [1, 0, 1, 0, 1, 0, 0, 0, 1, 0, 0, 0, 0, 0, 1, 0, 0, 1],
  [0, 0, 1, 1, 1, 0, 1, 1, 0, 0, 1, 1, 0, 1, 0, 0, 0, 1],
  [1, 1, 0, 0, 0, 0, 0, 1, 0, 1, 0, 0, 1, 1, 0, 0, 0, 0],
  [0, 0, 0, 1, 1, 0, 1, 0, 1, 1, 0, 0, 0, 1, 1, 0, 0, 0]]

/-- The default sync vector (R127, D15). -/
def defaultSync : Vector Bit nSym := Vector.ofFn fun i => syncRows.flatten.getD i 0

/-! ### Free values: nothing constrains them and nothing evaluates them -/

/-- The open parameters of the machine after reset (D19, D22; assumption log 1): any well-formed ones. -/
opaque openParams : WfParams

/-- The configuration after reset: the default sync vector, and open parameters of which nothing is known but that
they are well formed. -/
def atReset : Config := ⟨defaultSync, openParams⟩

/-- The rational a bit pattern of `OFFS` or `CORR` denotes where `HzRepr.listed` does not say (assumption log 3). -/
opaque hzUnlisted : Nat → Rat

/-- `round` at the exact half `n + 1/2`: up or down, free for each `n` (00_scope.md R6, U10; assumption log 4). -/
opaque tieUp : Int → Bool

/-- The value of the `k`-th host read where the spec leaves it unspecified (10_state.md R28, R29; assumption log 9). -/
opaque freeRead : Nat → Nat

end Config

/-- What the Register Bus answers to one access (20_memory.md R45, R50): it completes, with a data byte that only a
read uses, or it fails. -/
inductive BusReply where
  | done (data : Byte)
  | failed
  deriving DecidableEq, Repr, Inhabited

/-- The answer to the `k`-th bus access since the run began where the environment lists none (assumption log 5). -/
opaque Config.freeBusReply : Nat → BusReply

end Sys2Proof
end

