-- ==== Sys2Proof/Machine/State.lean ====
section
/-! DEFINITION. The state of the block (10_state.md), the events of the Register Bus, the host's pending actions,
the result codes, the reasons a step can stop, and the state after reset. -/

namespace Sys2Proof
namespace Machine

/-- The result codes `STATUS.ERR` can hold (60_exceptions.md R180); the codes 11 to 15 are "never written". -/
inductive ErrCode where
  | ok
  | invalidPower
  | invalidCallsign
  | invalidCharacter
  | invalidLocator
  | outOfRange
  | unsupportedBand
  | unrepresentable
  | illegalCommand
  | notReady
  | busFault
  deriving DecidableEq, Repr

/-- A bus event (20_memory.md R44, R45, R47): one byte written to, or read from, a synthesizer register. -/
inductive BusEvent where
  | write (addr v : Byte)
  | read (addr v : Byte)
  deriving DecidableEq, Repr

/-- One action of the outside world on the block: a host write or read of a numbered register (10_state.md R28),
with a natural number as the datum, or the environment's reset (70_reset_and_hazards.md R210). -/
inductive Input where
  | write (number : BitVec 12) (v : Nat)
  | read (number : BitVec 12)
  | reset
  deriving DecidableEq, Repr

/-- The state. Registers are named as in 10_state.md R11; an element of type `Reg w` is `none` while its written-bit
is 0 (R12). `offs` and `corr` hold the bit pattern of the open representation `HzRepr`. -/
structure State where
  /-- The configuration: no part of the block's state (R10), and no step changes it (assumption log 1). -/
  cfg : Config
  /-- `STATUS.ERR` (R14). -/
  err : ErrCode
  /-- `STATUS.BUSY` (R14). -/
  busy : Bool
  /-- `PWR` (R15). -/
  pwr : Reg 8
  /-- `CLEN` (R15). -/
  clen : Reg 8
  /-- `BRV` (R22). -/
  brv : Reg 8
  /-- `DRVOP` (R26). -/
  drvop : Reg 7
  /-- `BAND` (R27). -/
  band : Reg 8
  /-- `A` (R23). -/
  a : Reg 32
  /-- `B` (R23). -/
  b : Reg 32
  /-- `C` (R23). -/
  c : Reg 32
  /-- `OFFS` (R27). -/
  offs : Option Nat
  /-- `CORR` (R27). -/
  corr : Option Nat
  /-- `CALL[0..16]` (R15). -/
  call : Vector (Reg 8) 16
  /-- `GRID[0..4]` (R15). -/
  grid : Vector (Reg 8) 4
  /-- `CSC` (R16). -/
  csc : Reg 28
  /-- `GRD` (R16). -/
  grd : Reg 15
  /-- `LPC` (R16). -/
  lpc : Reg 22
  /-- `MSG[0..7]` (R17). -/
  msg : Vector (Reg 8) 7
  /-- `R0` (R18). -/
  r0 : Reg 32
  /-- `R1` (R18). -/
  r1 : Reg 32
  /-- `P1` (R24). -/
  p1 : Reg 18
  /-- `P2` (R24). -/
  p2 : Reg 20
  /-- `P3` (R24). -/
  p3 : Reg 20
  /-- `IMGBASE` (R25). -/
  imgbase : Reg 8
  /-- `IMG[0..8]` (R25). -/
  img : Vector (Reg 8) 8
  /-- `FEC[0..162]` (R19). -/
  fec : Vector (Reg 1) 162
  /-- `ILV[0..162]` (R20). -/
  ilv : Vector (Reg 1) 162
  /-- `SYM[0..162]` (R21). -/
  sym : Vector (Reg 2) 162
  /-- The bus history since reset, oldest event first (20_memory.md R47). -/
  busLog : List BusEvent
  /-- The model's own: pending actions of the host and the environment, next first (assumption log 8). -/
  inputs : List Input
  /-- The model's own: the Register Bus's answers to the next accesses (assumption log 5). -/
  busReplies : List BusReply
  /-- The model's own: bus accesses attempted so far, the index of the free bus reply (assumption log 5). -/
  busCount : Nat
  /-- The model's own: host reads served so far, the index of the free read value (assumption log 9). -/
  readCount : Nat
  /-- The model's own: what the host's reads returned, with the register number, oldest first (assumption log 9). -/
  responses : List (BitVec 12 × Nat)
  deriving DecidableEq, Repr

/-- The machine has no fault of its own: every error the spec describes is a result code in `STATUS.ERR`, a next
state (60_exceptions.md R184, R185), and so is `BusFault` with its stopped state (R191; assumption log 6). No step
raises anything of this type. -/
inductive Fault where
  deriving DecidableEq, Repr

/-- The reasons a step has no meaning. -/
inductive Refusal where
  /-- Raised by an arm of `exec` that has no meaning yet. Safe: nothing is provable of the instruction. -/
  | notModelled (mnemonic : String)
  /-- Raised by `step` for a host access while `BUSY = 1` (93_implementation_defined.md U8: "refuse"). Safe: no run
  reaches it, since every operation is one step (assumption log 11). -/
  | hostAccessWhileBusy
  /-- Raised by `step` for a reset while `BUSY = 1` (93_implementation_defined.md U19: "refuse (cannot occur in the
  model)"). Safe, as above (assumption log 11). -/
  | resetWhileBusy
  deriving DecidableEq, Repr

/-- What a step of this machine answers. -/
abbrev Outcome := Host.Outcome State Fault Refusal

/-- The block's reset applied to a state (10_state.md R35, 70_reset_and_hazards.md R210, R211): `STATUS = 0`, no
element holds a value, the bus history is empty. The configuration is not touched, and what belongs to the outside
world (its pending actions, the bus's answers, what the host has read) stays as it is (assumption log 13). -/
def State.resetBlock (s : State) : State where
  cfg := s.cfg
  err := .ok
  busy := false
  pwr := none
  clen := none
  brv := none
  drvop := none
  band := none
  a := none
  b := none
  c := none
  offs := none
  corr := none
  call := Vector.replicate 16 none
  grid := Vector.replicate 4 none
  csc := none
  grd := none
  lpc := none
  msg := Vector.replicate 7 none
  r0 := none
  r1 := none
  p1 := none
  p2 := none
  p3 := none
  imgbase := none
  img := Vector.replicate 8 none
  fec := Vector.replicate 162 none
  ilv := Vector.replicate 162 none
  sym := Vector.replicate 162 none
  busLog := []
  inputs := s.inputs
  busReplies := s.busReplies
  busCount := s.busCount
  readCount := s.readCount
  responses := s.responses

/-- The machine right after reset (10_state.md R35), with nothing pending from outside (assumption log 8). -/
def State.reset : State where
  cfg := Config.atReset
  err := .ok
  busy := false
  pwr := none
  clen := none
  brv := none
  drvop := none
  band := none
  a := none
  b := none
  c := none
  offs := none
  corr := none
  call := Vector.replicate 16 none
  grid := Vector.replicate 4 none
  csc := none
  grd := none
  lpc := none
  msg := Vector.replicate 7 none
  r0 := none
  r1 := none
  p1 := none
  p2 := none
  p3 := none
  imgbase := none
  img := Vector.replicate 8 none
  fec := Vector.replicate 162 none
  ilv := Vector.replicate 162 none
  sym := Vector.replicate 162 none
  busLog := []
  inputs := []
  busReplies := []
  busCount := 0
  readCount := 0
  responses := []

end Machine
end Sys2Proof
end

