-- ==== Sys2Proof/Machine/Operands.lean ====
section
/-! DEFINITION. The operand forms: the sets of registers each operation reads, with the test of their written-bits
that precedes everything else (30_encoding.md R62, 60_exceptions.md R190); the fields of the command; the fields of
`DRVOP`; the rational an `HzRepr` pattern denotes; and `round`. -/

namespace Sys2Proof
namespace Machine

/-! ### Written-bits (10_state.md R12) -/

/-- The values of a buffer if every element has been written, else nothing. -/
def written {w n : Nat} (v : Vector (Reg w) n) : Option (Vector (BitVec w) n) :=
  if v.all Option.isSome then some (Vector.ofFn fun i => v[i].getD 0) else none

/-- The values of a list of elements if every one has been written, else nothing. -/
def readAll {w : Nat} : List (Reg w) → Option (List (BitVec w))
  | [] => some []
  | none :: _ => none
  | some x :: rest => (readAll rest).map (x :: ·)

/-! ### Operand sets (60_exceptions.md R190); `none` is `NotReady` -/

/-- The operands of `PACK` and `ENCODE` (40_source_coding.md R99). -/
structure PackOperands where
  pwr  : Byte
  clen : Byte
  /-- `CALL[k]` for `k` below `min(CLEN, 16)`, `CALL[0]` first. -/
  call : List Byte
  grid : Vector Byte 4
  deriving DecidableEq, Repr

/-- `PWR`, `CLEN`, `CALL[k]` for `k` below `min(CLEN, 16)`, `GRID[0..4]` (R99, R190). `CLEN` says which bytes of
`CALL` are read. -/
def packOperands (s : State) : Option PackOperands :=
  match s.clen, s.pwr, written s.grid with
  | some clen, some pwr, some grid =>
    (readAll (s.call.toList.take clen.toNat)).map fun call => ⟨pwr, clen, call, grid⟩
  | _, _, _ => none

/-- `A`, `B`, `C`: the ratio `a + b/c` of `PLLCFG` and `MSCFG` (30_encoding.md R74), each read whole and unsigned
(R66). -/
def ratioOperands (s : State) : Option (Nat × Nat × Nat) :=
  match s.a, s.b, s.c with
  | some a, some b, some c => some (a.toNat, b.toNat, c.toNat)
  | _, _, _ => none

/-- `BAND`, `OFFS`, `CORR` of `TONE` (44_synth_driver_tone.md R167). -/
def toneOperands (s : State) : Option (Byte × Nat × Nat) :=
  match s.band, s.offs, s.corr with
  | some band, some offs, some corr => some (band, offs, corr)
  | _, _, _ => none

/-! ### The fields of the command: indices into the configured addresses (30_encoding.md R63, R66) -/

/-- `PLL_BASE[pll]`. -/
def pllBaseOf (cfg : Config) (pll : Bit) : Byte :=
  cfg.par.raw.pllBase[pll.toNat]'(by have := pll.isLt; omega)

/-- `MS_BASE[ch]`; the channel 3 has none. -/
def msBaseOf (cfg : Config) (ch : BitVec 2) : Option Byte := cfg.par.raw.msBase[ch.toNat]?

/-- `CLK_CTRL[ch]`; the channel 3 has none. -/
def clkCtrlOf (cfg : Config) (ch : BitVec 2) : Option Byte := cfg.par.raw.clkCtrl[ch.toNat]?

/-! ### The sub-fields of `DRVOP` (10_state.md R26) -/

/-- `DRVOP[6]`. -/
def drvIntMode (d : BitVec 7) : Bit := d.extractLsb' 6 1
/-- `DRVOP[5]`. -/
def drvPllSource (d : BitVec 7) : Bit := d.extractLsb' 5 1
/-- `DRVOP[4]`. -/
def drvInvert (d : BitVec 7) : Bit := d.extractLsb' 4 1
/-- `DRVOP[3:2]`. -/
def drvInputSource (d : BitVec 7) : BitVec 2 := d.extractLsb' 2 2
/-- `DRVOP[1:0]`. -/
def drvDrive (d : BitVec 7) : BitVec 2 := d.extractLsb' 0 2

/-! ### The numerics of `TONE` (44_synth_driver_tone.md R165, R166) -/

/-- `BANDTAB(BAND)`: the record of a band key, if the key is in the table (R165). -/
def bandLookup (cfg : Config) (key : Byte) : Option BandEntry := cfg.par.raw.bandTab.lookup key

/-- The rational number of hertz the pattern `v` of `OFFS` or `CORR` denotes (10_state.md R27; assumption log 3). -/
def hzOf (cfg : Config) (v : Nat) : Rat :=
  match cfg.par.raw.hz.listed.lookup v with
  | some q => q
  | none => Config.hzUnlisted v

/-- `round`: within one half of its argument, so an integer maps to itself; at an exact half the configuration's free
choice decides (00_scope.md R6; assumption log 4). -/
def roundHz (x : Rat) : Int :=
  let n := x.floor
  if x - n < 1 / 2 then n
  else if 1 / 2 < x - n then n + 1
  else if Config.tieUp n then n + 1
  else n

/-- The numerator of `TONE`'s PLL ratio, "an integer, possibly negative or above 0xFFFFF": the sum is formed first,
then scaled, then rounded once (R166). -/
def toneNumerator (cfg : Config) (e : BandEntry) (offs corr : Nat) : Int :=
  e.baseB + roundHz ((hzOf cfg offs + hzOf cfg corr) * e.scale)

end Machine
end Sys2Proof
end

