-- ==== Sys2Proof/Machine/Ops.lean ====
section
/-! DEFINITION. The operations every instruction shares: how an operation begins and ends (with a result code, the block's only
form of exception), the two primitives of the Register Bus, and the register updates of several elements at once. -/

namespace Sys2Proof
namespace Machine

/-! ### The beginning and the end of an operation -/

/-- The state with other pending actions: how the next one is taken from the front. -/
def setInputs (rest : List Input) (s : State) : State := { s with inputs := rest }

/-- An operation begins: `BUSY` rises (10_state.md R14, 30_encoding.md R62). -/
def setBusy (s : State) : State := { s with busy := true }

/-- An operation ends with the result code `e` (30_encoding.md R62, 60_exceptions.md R184, R185): `STATUS.ERR <- e`
and `BUSY` falls. This is all there is of an exception in this block: no state is saved, no mode changes, control goes
nowhere, and there is nothing to return from (R185, R186). With `e = ok` it is the end of a successful operation. -/
def endWith (e : ErrCode) (s : State) : Outcome := .next { s with err := e, busy := false }

/-- The end of an operation of which a failure leaves nothing but `ERR` behind (R184): on an error the state is the
one before the command, otherwise the one the operation computed. -/
def settle (before : State) : Except ErrCode State → Outcome
  | .error e => endWith e before
  | .ok after => endWith .ok after

/-! ### The Register Bus (20_memory.md R44, R45, R47, R50) -/

/-- What the bus answers to the next access: the first listed answer, else the free one of this access. -/
def nextReply (s : State) : BusReply :=
  match s.busReplies with
  | r :: _ => r
  | [] => Config.freeBusReply s.busCount

/-- An access uses up its answer. -/
def consumeReply (s : State) : State :=
  { s with busReplies := s.busReplies.tail, busCount := s.busCount + 1 }

/-- A bus event joins the history, at its end (R47). -/
def logEvent (e : BusEvent) (s : State) : State := { s with busLog := s.busLog ++ [e] }

/-- `MemWrite(addr, 1, v)` (R44): the state after it, and whether it completed; a failed access appends nothing to
the history (60_exceptions.md R191). -/
def memWrite (addr v : Byte) (s : State) : State × Bool :=
  match nextReply s with
  | .done _ => (logEvent (.write addr v) (consumeReply s), true)
  | .failed => (consumeReply s, false)

/-- `MemRead(addr, 1)` (R45): the state after it, and the byte the bus returns if it completed. -/
def memRead (addr : Byte) (s : State) : State × Option Byte :=
  match nextReply s with
  | .done v => (logEvent (.read addr v) (consumeReply s), some v)
  | .failed => (consumeReply s, none)

/-- Writes in order, up to and without the first that fails; the ones after it are not attempted
(60_exceptions.md R191). The flag says whether all completed. -/
def busWrites : List (Byte × Byte) → State → State × Bool
  | [], s => (s, true)
  | (addr, v) :: rest, s =>
    match memWrite addr v s with
    | (t, true) => busWrites rest t
    | (t, false) => (t, false)

/-- The result code of an operation whose last work was on the bus. -/
def busResult (completed : Bool) : ErrCode := if completed then .ok else .busFault

end Machine
end Sys2Proof
end

