-- ==== Sys2Proof/Machine/Dividers.lean ====
section
/-! DEFINITION. `PLLCFG` and `MSCFG`: divider register generation (43_synth_dividers.md). -/

namespace Sys2Proof
namespace Machine

/-- `ratio_ok` (R141). The numerator is an integer because `TONE` can present a negative one (R166). -/
def ratioOk (a : Nat) (b : Int) (c aMin aMax : Nat) : Bool :=
  decide (aMin ≤ a ∧ a ≤ aMax) && decide (0 < c ∧ c ≤ Config.bcMax) && decide (0 ≤ b ∧ b ≤ Config.bcMax)

/-- `pfields` (R142), exact. -/
def pfields (a b c : Nat) : Nat × Nat × Nat :=
  if b = 0 then (128 * a - 512, 0, c)
  else
    let q := 128 * b / c
    (128 * a + q - 512, 128 * b - c * q, c)

/-- The image of a divider configuration (30_encoding.md R75, 43_synth_dividers.md R145; assumption log 15). -/
def imageBytes (p1 : BitVec 18) (p2 p3 : BitVec 20) : Vector Byte 8 :=
  #v[p3.extractLsb' 8 8, p3.extractLsb' 0 8, 0#6 ++ p1.extractLsb' 16 2, p1.extractLsb' 8 8, p1.extractLsb' 0 8,
    p3.extractLsb' 16 4 ++ p2.extractLsb' 16 4, p2.extractLsb' 8 8, p2.extractLsb' 0 8]

/-- The bus writes of an image: byte `k` to `base + k`, ascending (R145, 45_common_semantics.md R175). -/
def imageWrites (base : Byte) (img : Vector Byte 8) : List (Byte × Byte) :=
  (List.finRange 8).map fun (k : Fin 8) => (base + BitVec.ofNat 8 k.val, img[k])

/-- The registers an image fills (R145, 10_state.md R24, R25). -/
def storeImage (base : Byte) (p1 : BitVec 18) (p2 p3 : BitVec 20) (s : State) : State :=
  { s with
    p1 := some p1, p2 := some p2, p3 := some p3, imgbase := some base, img := (imageBytes p1 p2 p3).map some }

/-- `write_image` (R145): fills the result registers, then performs the eight bus writes. -/
def writeImage (base : Byte) (p1 : BitVec 18) (p2 p3 : BitVec 20) (s : State) : State × Bool :=
  busWrites (imageWrites base (imageBytes p1 p2 p3)) (storeImage base p1 p2 p3 s)

/-- The whole procedure of WB's `configure_…` functions on the ratio `a + b/c` (R146, R147): range test, divider
fields, representability (R144), image; the state after it and its result code. -/
def configureDivider (base : Byte) (aMin aMax a : Nat) (b : Int) (c : Nat) (s : State) : State × ErrCode :=
  if ratioOk a b c aMin aMax then
    match pfields a b.toNat c with
    | (p1, p2, p3) =>
      if p1 < 2 ^ 18 then
        match writeImage base (BitVec.ofNat 18 p1) (BitVec.ofNat 20 p2) (BitVec.ofNat 20 p3) s with
        | (t, completed) => (t, busResult completed)
      else (s, .unrepresentable)
  else (s, .outOfRange)

/-- `PLLCFG p` (43_synth_dividers.md R146). -/
def execPllcfg (pll : Bit) (s : State) : Outcome :=
  match ratioOperands s with
  | none => endWith .notReady s
  | some (a, b, c) =>
    match configureDivider (pllBaseOf s.cfg pll) Config.pllAMin Config.pllAMax a b c s with
    | (t, e) => endWith e t

/-- `MSCFG n` (43_synth_dividers.md R147). The channel 3 is no command (30_encoding.md R63): were it ever given to
this meaning, it is an `IllegalCommand` (assumption log 12). -/
def execMscfg (ch : BitVec 2) (s : State) : Outcome :=
  match msBaseOf s.cfg ch with
  | none => endWith .illegalCommand s
  | some base =>
    match ratioOperands s with
    | none => endWith .notReady s
    | some (a, b, c) =>
      match configureDivider base Config.msAMin Config.msAMax a b c s with
      | (t, e) => endWith e t

end Machine
end Sys2Proof
end

