-- ==== Sys2Proof/Machine/DriverTone.lean ====
section
/-! DEFINITION. `DRVCFG` and `TONE` (44_synth_driver_tone.md). -/

namespace Sys2Proof
namespace Machine

/-- The control byte (30_encoding.md R76): bit 7 preserved from the value read, the rest from the five sub-fields. -/
def controlByte (old : Byte) (d : BitVec 7) : Byte :=
  old.extractLsb' 7 1 ++ drvIntMode d ++ drvPllSource d ++ drvInvert d ++ drvInputSource d ++ drvDrive d

/-- `DRVCFG` at a control register (R161): a read, then a write; either may end in `BusFault`. -/
def configureDriver (reg : Byte) (d : BitVec 7) (s : State) : State × ErrCode :=
  match memRead reg s with
  | (t, none) => (t, .busFault)
  | (t, some old) =>
    match memWrite reg (controlByte old d) t with
    | (u, completed) => (u, busResult completed)

/-- `DRVCFG n` (44_synth_driver_tone.md R161). For the channel 3 see `execMscfg`. -/
def execDrvcfg (ch : BitVec 2) (s : State) : Outcome :=
  match clkCtrlOf s.cfg ch with
  | none => endWith .illegalCommand s
  | some reg =>
    match s.drvop with
    | none => endWith .notReady s
    | some d =>
      match configureDriver reg d s with
      | (t, e) => endWith e t

/-- The two halves of `TONE` (R167) once the band record is known: the multisynth image in integer mode, then, if
that succeeded, the PLL image with the tone's numerator. A failure of the second half leaves the first (R184, R218). -/
def configureTone (msBase pllBase : Byte) (e : BandEntry) (offs corr : Nat) (s : State) : State × ErrCode :=
  match configureDivider msBase Config.msAMin Config.msAMax e.msDiv 0 1 s with
  | (t, .ok) =>
    configureDivider pllBase Config.pllAMin Config.pllAMax e.pllA (toneNumerator s.cfg e offs corr) e.pllC t
  | (t, code) => (t, code)

/-- `TONE n, p` (44_synth_driver_tone.md R167). For the channel 3 see `execMscfg`. -/
def execTone (ch : BitVec 2) (pll : Bit) (s : State) : Outcome :=
  match msBaseOf s.cfg ch with
  | none => endWith .illegalCommand s
  | some msBase =>
    match toneOperands s with
    | none => endWith .notReady s
    | some (band, offs, corr) =>
      match bandLookup s.cfg band with
      | none => endWith .unsupportedBand s
      | some e =>
        match configureTone msBase (pllBaseOf s.cfg pll) e offs corr s with
        | (t, code) => endWith code t

end Machine
end Sys2Proof
end

