-- ==== Sys2Proof/Machine/Convolution.lean ====
section
/-! DEFINITION. `CONV`: the convolutional encoder (41_convolutional_encoder.md). -/

namespace Sys2Proof
namespace Machine

/-- `popcount` (00_scope.md R7): the number of 1 bits. -/
def popcount {w : Nat} (x : BitVec w) : Nat := ((List.range w).filter fun i => x.getLsbD i).length

/-- `parity(x) = popcount(x) mod 2` (R7, 41_convolutional_encoder.md R111). -/
def parity {w : Nat} (x : BitVec w) : Bit := BitVec.ofNat 1 (popcount x % 2)

/-- Message bit `i` of the 81-bit window (R110): bit `7 - (i mod 8)` of byte `floor(i/8)` for `i` up to 55, else 0. -/
def mbit (m : Vector Byte 7) (i : Nat) : Bit :=
  if h : i / 8 < 7 then (m[i / 8]'h).extractLsb' (7 - i % 8) 1 else 0

/-- The bit injected into a shifted register (R111): `((r << 1) mod 2^32) | d`. -/
def shiftIn (r : BitVec 32) (d : Bit) : BitVec 32 := (r <<< 1) ||| d.setWidth 32

/-- One bit step (R111): the new registers and the two output bits. -/
def convStep (r0 r1 : BitVec 32) (d : Bit) : BitVec 32 × BitVec 32 × Bit × Bit :=
  let r0' := shiftIn r0 d
  let r1' := shiftIn r1 d
  (r0', r1', parity (r0' &&& Config.poly0), parity (r1' &&& Config.poly1))

/-- The loop of `CONV` (R112) over a list of message bits: the registers at its end and the output bits in order. -/
def convLoop : List Bit → BitVec 32 → BitVec 32 → BitVec 32 × BitVec 32 × List Bit
  | [], r0, r1 => (r0, r1, [])
  | d :: rest, r0, r1 =>
    match convStep r0 r1 d with
    | (r0', r1', o0, o1) =>
      match convLoop rest r0' r1' with
      | (f0, f1, out) => (f0, f1, o0 :: o1 :: out)

/-- The 81 message bits (30_encoding.md R71). -/
def messageWindow (m : Vector Byte 7) : List Bit := (List.range Config.nBits).map (mbit m)

/-- `CONV` on its operand (R112): both registers start at 0. -/
def convolve (m : Vector Byte 7) : BitVec 32 × BitVec 32 × Vector Bit 162 :=
  match convLoop (messageWindow m) 0 0 with
  | (f0, f1, out) => (f0, f1, Vector.ofFn fun k => out.getD k 0)

/-- The writes of `CONV` (R112). -/
def storeConv (r : BitVec 32 × BitVec 32 × Vector Bit 162) (s : State) : State :=
  { s with r0 := some r.1, r1 := some r.2.1, fec := r.2.2.map some }

/-- `CONV` on the state: `NotReady`, or the state with its results. -/
def convBody (s : State) : Except ErrCode State :=
  match written s.msg with
  | none => .error .notReady
  | some m => .ok (storeConv (convolve m) s)

/-- `CONV` (41_convolutional_encoder.md R112). -/
def execConv (s : State) : Outcome := settle s (convBody s)

end Machine
end Sys2Proof
end

