-- ==== Sys2Proof/Machine/SourceCoding.lean ====
section
/-! DEFINITION. `PACK`: source coding (40_source_coding.md; formats of 30_encoding.md section 4). -/

namespace Sys2Proof
namespace Machine

/-! ### Characters (00_scope.md R7, 30_encoding.md R67); ASCII, assumption log 14 -/

/-- The byte of a space. -/
def spaceByte : Byte := 0x20

/-- A digit, `'0'` to `'9'`. -/
def isDigit (b : Byte) : Bool := decide (0x30 ≤ b.toNat ∧ b.toNat < 0x3A)

/-- A letter, `'A'` to `'Z'`; lower case is not one. -/
def isLetter (b : Byte) : Bool := decide (0x41 ≤ b.toNat ∧ b.toNat < 0x5B)

/-- `cval` (R67): digits 0 to 9, letters 10 to 35, space 36, no value for any other byte. -/
def cval (b : Byte) : Option Nat :=
  if isDigit b then some (b.toNat - 0x30)
  else if isLetter b then some (b.toNat - 0x41 + 10)
  else if b = spaceByte then some 36
  else none

/-- Step 3 (R93): the values of every character of a string, in order; nothing if one has no value. -/
def charValues : List Byte → Option (List Nat)
  | [] => some []
  | b :: rest =>
    match cval b with
    | none => none
    | some v => (charValues rest).map (v :: ·)

/-! ### Steps 1, 2 and 4 to 7 -/

/-- Step 1, `power_ok` (R91). -/
abbrev powerOk (p : Nat) : Prop := p ≤ 60 ∧ (p % 10 = 0 ∨ p % 10 = 3 ∨ p % 10 = 7)

/-- "`len(s) > 2` and `s[2]` is a digit" (R92). -/
def digitAtTwo (s : List Byte) : Bool :=
  match s[2]? with
  | some b => isDigit b
  | none => false

/-- The first loop of `normalize` (R92), with `left` more spaces allowed: pads on the left until the character at
index 2 is a digit. -/
def padLeft : Nat → List Byte → Option (List Byte)
  | 0, s => if digitAtTwo s then some s else none
  | left + 1, s => if digitAtTwo s then some s else padLeft left (spaceByte :: s)

/-- The second loop of `normalize` (R92): pads on the right up to six characters; longer strings stay. -/
def padRight (s : List Byte) : List Byte := s ++ List.replicate (6 - s.length) spaceByte

/-- `normalize` (R92) of a callsign of length `clen`, at most 16 and normalizable within 3 prepended spaces; `none`
is `InvalidCallsign`. -/
def normalizeCallsign (clen : Nat) (s : List Byte) : Option (List Byte) :=
  if clen ≤ Config.callMax then (padLeft 3 s).map padRight else none

/-- The length and suffix tests (R94, R95): exactly six values, and none below 10 at the indices 3, 4, 5. -/
def callsignShapeOk (v : List Nat) : Bool :=
  v.length == 6 && decide (10 ≤ v.getD 3 0) && decide (10 ≤ v.getD 4 0) && decide (10 ≤ v.getD 5 0)

/-- Step 4, `callsign_code` (R96): the mixed-radix fold. The subtractions are exact where R95 holds. -/
def callsignCode (v : List Nat) : Nat :=
  [3, 4, 5].foldl (fun acc i => acc * 27 + (v.getD i 0 - 10)) ((v.getD 0 0 * 36 + v.getD 1 0) * 10 + v.getD 2 0)

/-- Step 5, the test of the locator (R97): two letters `'A'` to `'R'`, two digits. -/
def locatorOk (g : Vector Byte 4) : Bool :=
  decide (0x41 ≤ g[0].toNat ∧ g[0].toNat ≤ 0x52) && decide (0x41 ≤ g[1].toNat ∧ g[1].toNat ≤ 0x52) &&
    isDigit g[2] && isDigit g[3]

/-- Step 5, `grid_code` (R97). The subtractions are exact where the locator passed its test. -/
def gridCode (g : Vector Byte 4) : Nat :=
  (179 - 10 * (g[0].toNat - 0x41) - (g[2].toNat - 0x30)) * 180 + 10 * (g[1].toNat - 0x41) + (g[3].toNat - 0x30)

/-- Step 6, LocatorPowerCode (R98). -/
def locatorPowerCode (grid power : Nat) : Nat := grid * 128 + power + 64

/-- Step 7, the 56-bit message (30_encoding.md R70). -/
def messageValue (callsign pwrInt : Nat) : Nat := ((callsign <<< 22) ||| (pwrInt &&& 0x3FFFFF)) <<< 6

/-- Byte `k` of a 56-bit message, big-endian: its bits `55-8k : 48-8k` (R70, 20_memory.md R42). -/
def messageByte (m k : Nat) : Byte := BitVec.ofNat 8 (m >>> (48 - 8 * k))

/-! ### The operation (R99) -/

/-- What `PACK` computes. -/
structure Packed where
  csc : BitVec 28
  grd : BitVec 15
  lpc : BitVec 22
  msg : Vector Byte 7
  deriving DecidableEq, Repr

/-- The callsign part: normalization, characters, then length and suffix; the first failing test names the error
(R99 "Order of tests", 60_exceptions.md R187). -/
def callsignValues (clen : Nat) (call : List Byte) : Except ErrCode (List Nat) :=
  match normalizeCallsign clen call with
  | none => .error .invalidCallsign
  | some t =>
    match charValues t with
    | none => .error .invalidCharacter
    | some v => if callsignShapeOk v then .ok v else .error .invalidCallsign

/-- The four results from the callsign values, the locator and the power (R96 to R99). -/
def assemble (v : List Nat) (grid : Vector Byte 4) (power : Nat) : Packed :=
  let n := callsignCode v
  let g := gridCode grid
  let m := locatorPowerCode g power
  ⟨BitVec.ofNat 28 n, BitVec.ofNat 15 g, BitVec.ofNat 22 m, Vector.ofFn fun k => messageByte (messageValue n m) k⟩

/-- The pseudocode of `PACK` on its operands (R99). -/
def packResult (o : PackOperands) : Except ErrCode Packed :=
  if powerOk o.pwr.toNat then
    match callsignValues o.clen.toNat o.call with
    | .error e => .error e
    | .ok v => if locatorOk o.grid then .ok (assemble v o.grid o.pwr.toNat) else .error .invalidLocator
  else .error .invalidPower

/-- The writes of `PACK` (R99). -/
def storePacked (r : Packed) (s : State) : State :=
  { s with csc := some r.csc, grd := some r.grd, lpc := some r.lpc, msg := r.msg.map some }

/-- `PACK` on the state: `NotReady`, an error of its tests, or the state with its results. -/
def packBody (s : State) : Except ErrCode State :=
  match packOperands s with
  | none => .error .notReady
  | some o => (packResult o).map fun r => storePacked r s

/-- `PACK` (40_source_coding.md R99). -/
def execPack (s : State) : Outcome := settle s (packBody s)

end Machine
end Sys2Proof
end

