-- ==== Sys2Proof/Machine/Interleaver.lean ====
section
/-! DEFINITION. `BREV`, `ILV`, `MERGE` and `ENCODE` (42_interleaver_sync_merge.md). -/

namespace Sys2Proof
namespace Machine

/-! ### Bit reversal -/

/-- Bit `k` of a byte as a number. -/
def bitNat (j : Byte) (k : Nat) : Nat := (j.getLsbD k).toNat

/-- `brev8` (R120), as the rule's sum. -/
def brev8 (j : Byte) : Byte :=
  BitVec.ofNat 8 (bitNat j 0 * 128 + bitNat j 1 * 64 + bitNat j 2 * 32 + bitNat j 3 * 16 + bitNat j 4 * 8 +
    bitNat j 5 * 4 + bitNat j 6 * 2 + bitNat j 7)

/-- `BREV` on the state (R121). -/
def brevBody (s : State) : Except ErrCode State :=
  match s.brv with
  | none => .error .notReady
  | some x => .ok { s with brv := some (brev8 x) }

/-- `BREV` (42_interleaver_sync_merge.md R121). -/
def execBrev (s : State) : Outcome := settle s (brevBody s)

/-! ### The interleaver -/

/-- One interleaver step (R123), with the scan index `j`, the cursor `p` and the array so far. -/
def ilvStep (fec : Vector Bit 162) (j p : Nat) (out : Vector (Reg 1) 162) : Nat × Vector (Reg 1) 162 :=
  let r := (brev8 (BitVec.ofNat 8 j)).toNat
  if r < Config.nSym then (p + 1, out.setIfInBounds r (some (fec[p]?.getD 0))) else (p, out)

/-- The scan of `ILV` (R124) over a list of indices: stops once all 162 bits are placed. -/
def ilvLoop (fec : Vector Bit 162) : List Nat → Nat → Vector (Reg 1) 162 → Vector (Reg 1) 162
  | [], _, out => out
  | j :: rest, p, out =>
    if p = Config.nSym then out
    else
      match ilvStep fec j p out with
      | (p', out') => ilvLoop fec rest p' out'

/-- `ILV` on its operand and the old array (R124): `j` from 0 to 255. -/
def interleave (fec : Vector Bit 162) (old : Vector (Reg 1) 162) : Vector (Reg 1) 162 :=
  ilvLoop fec (List.range 256) 0 old

/-- `ILV` on the state: `NotReady`, or the state with the new array. -/
def ilvBody (s : State) : Except ErrCode State :=
  match written s.fec with
  | none => .error .notReady
  | some fec => .ok { s with ilv := interleave fec s.ilv }

/-- `ILV` (42_interleaver_sync_merge.md R124). -/
def execIlv (s : State) : Outcome := settle s (ilvBody s)

/-! ### The merge -/

/-- A symbol (30_encoding.md R73): `SYNC[i] + 2*ILV[i]`. -/
def symbolOf (sync data : Bit) : BitVec 2 := sync.setWidth 2 + 2 * data.setWidth 2

/-- The 162 symbols of an interleaved array (R128). -/
def merge (sync ilv : Vector Bit 162) : Vector (BitVec 2) 162 := Vector.ofFn fun i => symbolOf sync[i] ilv[i]

/-- `MERGE` on the state: `NotReady`, or the state with the symbols. -/
def mergeBody (s : State) : Except ErrCode State :=
  match written s.ilv with
  | none => .error .notReady
  | some ilv => .ok { s with sym := (merge s.cfg.sync ilv).map some }

/-- `MERGE` (42_interleaver_sync_merge.md R128). -/
def execMerge (s : State) : Outcome := settle s (mergeBody s)

/-! ### The whole encoder -/

/-- `ENCODE` on the state (R130): the pseudocode of `PACK`, which may raise and then nothing is written, then that of
`CONV`, `ILV` and `MERGE`. -/
def encodeBody (s : State) : Except ErrCode State :=
  (packBody s).bind fun packed => (convBody packed).bind fun coded => (ilvBody coded).bind mergeBody

/-- `ENCODE` (42_interleaver_sync_merge.md R130). -/
def execEncode (s : State) : Outcome := settle s (encodeBody s)

end Machine
end Sys2Proof
end

