-- ==== Sys2Proof/Machine/Dispatch.lean ====
section
/-! DEFINITION. One arm per operation, each a call of its meaning. -/

namespace Sys2Proof
namespace Machine

/-- The execution of a decoded operation (30_encoding.md R62, steps 2 to 4). -/
def exec (i : Instr) (s : State) : Host.Outcome State Fault Refusal :=
  match i with
  | .pack => Sys2Proof.Machine.execPack s
  | .conv => Sys2Proof.Machine.execConv s
  | .ilv => Sys2Proof.Machine.execIlv s
  | .merge => Sys2Proof.Machine.execMerge s
  | .encode => Sys2Proof.Machine.execEncode s
  | .brev => Sys2Proof.Machine.execBrev s
  | .pllcfg pll => Sys2Proof.Machine.execPllcfg pll s
  | .mscfg ch => Sys2Proof.Machine.execMscfg ch s
  | .drvcfg ch => Sys2Proof.Machine.execDrvcfg ch s
  | .tone ch pll => Sys2Proof.Machine.execTone ch pll s

end Machine
end Sys2Proof
end

