-- ==== Sys2Proof/Machine/Flags.lean ====
section
/-! DEFINITION. `STATUS` (10_state.md R14): the numbers of the result codes, the valid flags as functions of the
written-bits, and the word the host reads. The block has no other flag (R33). -/

namespace Sys2Proof
namespace Machine

/-- The number of a result code (60_exceptions.md R180). -/
def ErrCode.code : ErrCode → BitVec 4
  | .ok => 0
  | .invalidPower => 1
  | .invalidCallsign => 2
  | .invalidCharacter => 3
  | .invalidLocator => 4
  | .outOfRange => 5
  | .unsupportedBand => 6
  | .unrepresentable => 7
  | .illegalCommand => 8
  | .notReady => 9
  | .busFault => 10

/-- AND of the written-bits of a buffer. -/
def allWritten {w n : Nat} (v : Vector (Reg w) n) : Bool := v.all Option.isSome

/-- `STATUS.MSGV`. -/
def msgv (s : State) : Bool := allWritten s.msg
/-- `STATUS.FECV`. -/
def fecv (s : State) : Bool := allWritten s.fec
/-- `STATUS.ILVV`. -/
def ilvv (s : State) : Bool := allWritten s.ilv
/-- `STATUS.SYMV`. -/
def symv (s : State) : Bool := allWritten s.sym
/-- `STATUS.PV`: `P1`, `P2`, `P3`, `IMGBASE` and `IMG` all written. -/
def pv (s : State) : Bool :=
  s.p1.isSome && s.p2.isSome && s.p3.isSome && s.imgbase.isSome && allWritten s.img

/-- The word `HostRead(0x001)` returns: `ERR` in bits 3:0, then `BUSY`, `MSGV`, `FECV`, `ILVV`, `SYMV`, `PV` in bits
4 to 9; bits 15:10 read as 0 (R14). -/
def statusWord (s : State) : BitVec 16 :=
  0#6 ++ BitVec.ofBool (pv s) ++ BitVec.ofBool (symv s) ++ BitVec.ofBool (ilvv s) ++ BitVec.ofBool (fecv s) ++
    BitVec.ofBool (msgv s) ++ BitVec.ofBool s.busy ++ s.err.code

/-- The stopped state after a `BusFault`: "`ERR = 10` and stopped are equivalent" (60_exceptions.md R191). -/
def stopped (s : State) : Bool := decide (s.err = .busFault)

end Machine
end Sys2Proof
end

