-- ==== Sys2Proof/Machine/Registers.lean ====
section
/-! DEFINITION. The host's register map (10_state.md R11) and the two host accesses to it (R28, R29), but for the
write of `CMD`, which is in HostPort.lean. -/

namespace Sys2Proof
namespace Machine

/-- The registers of 10_state.md R11. -/
inductive RegName where
  | cmd
  | status
  | pwr
  | clen
  | brv
  | drvop
  | band
  | a
  | b
  | c
  | offs
  | corr
  | call (k : Fin 16)
  | grid (k : Fin 4)
  | csc
  | grd
  | lpc
  | msg (k : Fin 7)
  | r0
  | r1
  | p1
  | p2
  | p3
  | imgbase
  | img (k : Fin 8)
  | fec (i : Fin 162)
  | ilv (i : Fin 162)
  | sym (i : Fin 162)
  deriving DecidableEq, Repr

/-- The number of a register (R11). -/
def RegName.number : RegName → BitVec 12
  | .cmd => 0x000
  | .status => 0x001
  | .pwr => 0x002
  | .clen => 0x003
  | .brv => 0x004
  | .drvop => 0x005
  | .band => 0x006
  | .a => 0x008
  | .b => 0x009
  | .c => 0x00A
  | .offs => 0x00B
  | .corr => 0x00C
  | .call k => BitVec.ofNat 12 (0x010 + k.val)
  | .grid k => BitVec.ofNat 12 (0x020 + k.val)
  | .csc => 0x028
  | .grd => 0x029
  | .lpc => 0x02A
  | .msg k => BitVec.ofNat 12 (0x030 + k.val)
  | .r0 => 0x038
  | .r1 => 0x039
  | .p1 => 0x040
  | .p2 => 0x041
  | .p3 => 0x042
  | .imgbase => 0x043
  | .img k => BitVec.ofNat 12 (0x048 + k.val)
  | .fec i => BitVec.ofNat 12 (0x100 + i.val)
  | .ilv i => BitVec.ofNat 12 (0x200 + i.val)
  | .sym i => BitVec.ofNat 12 (0x300 + i.val)

/-- An element of an array of `n` registers that starts at number `base`. -/
def arrayElement (n base m : Nat) (f : Fin n → RegName) : Option RegName :=
  if h : base ≤ m ∧ m - base < n then some (f ⟨m - base, h.2⟩) else none

/-- The register arrays of R11. -/
def arrayOfNumber (m : Nat) : Option RegName :=
  (arrayElement 16 0x010 m .call).orElse fun _ =>
  (arrayElement 4 0x020 m .grid).orElse fun _ =>
  (arrayElement 7 0x030 m .msg).orElse fun _ =>
  (arrayElement 8 0x048 m .img).orElse fun _ =>
  (arrayElement 162 0x100 m .fec).orElse fun _ =>
  (arrayElement 162 0x200 m .ilv).orElse fun _ =>
  arrayElement 162 0x300 m .sym

/-- The register a number names; none for a reserved number (R11, R28). -/
def RegName.ofNumber (n : BitVec 12) : Option RegName :=
  match n.toNat with
  | 0x000 => some .cmd
  | 0x001 => some .status
  | 0x002 => some .pwr
  | 0x003 => some .clen
  | 0x004 => some .brv
  | 0x005 => some .drvop
  | 0x006 => some .band
  | 0x008 => some .a
  | 0x009 => some .b
  | 0x00A => some .c
  | 0x00B => some .offs
  | 0x00C => some .corr
  | 0x028 => some .csc
  | 0x029 => some .grd
  | 0x02A => some .lpc
  | 0x038 => some .r0
  | 0x039 => some .r1
  | 0x040 => some .p1
  | 0x041 => some .p2
  | 0x042 => some .p3
  | 0x043 => some .imgbase
  | m => arrayOfNumber m

/-- The "host access" column of R11: registers the host may write and read. -/
def RegName.readWrite : RegName → Bool
  | .pwr | .clen | .brv | .drvop | .band | .a | .b | .c | .offs | .corr => true
  | .call _ | .grid _ | .msg _ | .fec _ | .ilv _ => true
  | .cmd | .status | .csc | .grd | .lpc | .r0 | .r1 | .p1 | .p2 | .p3 | .imgbase | .img _ | .sym _ => false

/-- `HostWrite` of the datum `v` to a register other than `CMD` (R28): a read-write element takes `v` truncated to its
width and is then written; a read-only element and `STATUS` are not affected. -/
def writeReg (r : RegName) (v : Nat) (s : State) : State :=
  match r with
  | .pwr => { s with pwr := some (BitVec.ofNat 8 v) }
  | .clen => { s with clen := some (BitVec.ofNat 8 v) }
  | .brv => { s with brv := some (BitVec.ofNat 8 v) }
  | .drvop => { s with drvop := some (BitVec.ofNat 7 v) }
  | .band => { s with band := some (BitVec.ofNat 8 v) }
  | .a => { s with a := some (BitVec.ofNat 32 v) }
  | .b => { s with b := some (BitVec.ofNat 32 v) }
  | .c => { s with c := some (BitVec.ofNat 32 v) }
  | .offs => { s with offs := some (v % 2 ^ s.cfg.par.raw.hz.width) }
  | .corr => { s with corr := some (v % 2 ^ s.cfg.par.raw.hz.width) }
  | .call k => { s with call := s.call.set k (some (BitVec.ofNat 8 v)) }
  | .grid k => { s with grid := s.grid.set k (some (BitVec.ofNat 8 v)) }
  | .msg k => { s with msg := s.msg.set k (some (BitVec.ofNat 8 v)) }
  | .fec i => { s with fec := s.fec.set i (some (BitVec.ofNat 1 v)) }
  | .ilv i => { s with ilv := s.ilv.set i (some (BitVec.ofNat 1 v)) }
  | .cmd | .status | .csc | .grd | .lpc | .r0 | .r1 | .p1 | .p2 | .p3 | .imgbase | .img _ | .sym _ => s

/-- The width of an element that can be unwritten, in bits (R11). `CMD` and `STATUS` are given theirs too. -/
def regWidth (s : State) : RegName → Nat
  | .cmd | .pwr | .clen | .brv | .band | .imgbase => 8
  | .call _ | .grid _ | .msg _ | .img _ => 8
  | .status => 16
  | .drvop => 7
  | .a | .b | .c | .r0 | .r1 => 32
  | .offs | .corr => s.cfg.par.raw.hz.width
  | .csc => 28
  | .grd => 15
  | .lpc => 22
  | .p1 => 18
  | .p2 | .p3 => 20
  | .fec _ | .ilv _ => 1
  | .sym _ => 2

/-- The value of a written element, zero-extended to a natural number; `STATUS`; nothing for an element that holds no
value and for `CMD` (R28, R13). -/
def regValue (s : State) : RegName → Option Nat
  | .cmd => none
  | .status => some (statusWord s).toNat
  | .pwr => s.pwr.map BitVec.toNat
  | .clen => s.clen.map BitVec.toNat
  | .brv => s.brv.map BitVec.toNat
  | .drvop => s.drvop.map BitVec.toNat
  | .band => s.band.map BitVec.toNat
  | .a => s.a.map BitVec.toNat
  | .b => s.b.map BitVec.toNat
  | .c => s.c.map BitVec.toNat
  | .offs => s.offs
  | .corr => s.corr
  | .call k => s.call[k].map BitVec.toNat
  | .grid k => s.grid[k].map BitVec.toNat
  | .csc => s.csc.map BitVec.toNat
  | .grd => s.grd.map BitVec.toNat
  | .lpc => s.lpc.map BitVec.toNat
  | .msg k => s.msg[k].map BitVec.toNat
  | .r0 => s.r0.map BitVec.toNat
  | .r1 => s.r1.map BitVec.toNat
  | .p1 => s.p1.map BitVec.toNat
  | .p2 => s.p2.map BitVec.toNat
  | .p3 => s.p3.map BitVec.toNat
  | .imgbase => s.imgbase.map BitVec.toNat
  | .img k => s.img[k].map BitVec.toNat
  | .fec i => s.fec[i].map BitVec.toNat
  | .ilv i => s.ilv[i].map BitVec.toNat
  | .sym i => s.sym[i].map BitVec.toNat

/-- What a host read of a number returns (R28, R29): the value; of an element that holds no value, a free value of its
width; of `CMD` and of a reserved number, a free value (assumption log 9). -/
def hostReadValue (n : BitVec 12) (s : State) : Nat :=
  match RegName.ofNumber n with
  | none => Config.freeRead s.readCount
  | some .cmd => Config.freeRead s.readCount
  | some r =>
    match regValue s r with
    | some v => v
    | none => Config.freeRead s.readCount % 2 ^ regWidth s r

/-- A host read: the value joins the responses; of the block's own state nothing changes (R28). -/
def hostRead (n : BitVec 12) (s : State) : State :=
  { s with readCount := s.readCount + 1, responses := s.responses ++ [(n, hostReadValue n s)] }

end Machine
end Sys2Proof
end

