-- ==== Sys2Proof/Machine/HostPort.lean ====
section
/-! DEFINITION. The host port: the write of `CMD` that starts an operation (10_state.md R13, 30_encoding.md R62), and
what each action of the outside world does to the block. -/

namespace Sys2Proof
namespace Machine

/-- A command byte written to `CMD` (R62): ignored in the stopped state (60_exceptions.md R191); otherwise `BUSY`
rises and the byte is decoded; a byte that is no command ends with `IllegalCommand` (R64, R189), a command is executed
to its end in the same step. -/
def command (v : Byte) (s : State) : Outcome :=
  if stopped s then .next s
  else
    match decode v with
    | .error _ => endWith .illegalCommand (setBusy s)
    | .ok i => exec i (setBusy s)

/-- `HostWrite(n, v)` (10_state.md R28): `CMD` starts a command, with the datum truncated to its 8 bits (assumption
log 10); a reserved number is not affected. -/
def hostWrite (n : BitVec 12) (v : Nat) (s : State) : Outcome :=
  match RegName.ofNumber n with
  | none => .next s
  | some .cmd => command (BitVec.ofNat 8 v) s
  | some r => .next (writeReg r v s)

/-- What an action of the outside world does. While `BUSY = 1` the spec gives it no meaning (10_state.md R28, U8,
U19; assumption log 11). -/
def act (input : Input) (s : State) : Outcome :=
  match s.busy, input with
  | true, .write _ _ => .refused .hostAccessWhileBusy
  | true, .read _ => .refused .hostAccessWhileBusy
  | true, .reset => .refused .resetWhileBusy
  | false, .write n v => hostWrite n v s
  | false, .read n => .next (hostRead n s)
  | false, .reset => .next s.resetBlock

/-- The datum of the `CMD` write that presents the `nbits` bits `w` of an opcode-table row. -/
def commandDatum (nbits w : Nat) : Nat := w % 2 ^ nbits

end Machine
end Sys2Proof
end

