-- ==== Sys2Proof/Machine/Step.lean ====
section
/-! DEFINITION. One step: the next action of the outside world, with the whole operation it may start. -/

namespace Sys2Proof
namespace Machine

/-- One step of the machine (30_encoding.md R62, 70_reset_and_hazards.md R214): the next pending action of the host or
the environment is taken and done. With none pending the block is idle (R224) and nothing changes. -/
def step (s : State) : Host.Outcome State Fault Refusal :=
  match s.inputs with
  | [] => .next s
  | input :: rest => act input (setInputs rest s)

/-- The command of an opcode-table row placed where the next step takes its command: a `CMD` write before all that is
pending. The block fetches nothing (10_state.md R32): a program is what the host writes (assumption log 8). -/
def State.withFetchWord (s : State) (nbits w : Nat) : State :=
  { s with inputs := .write RegName.cmd.number (commandDatum nbits w) :: s.inputs }

end Machine
end Sys2Proof
end

