-- ==== Sys2Proof/Machine/Frequency.lean ====
section
/-! DEFINITION. `FOUT`: WB's `calculate_frequency`, a function of the specification and no operation of the block
(44_synth_driver_tone.md R170). -/

namespace Sys2Proof
namespace Machine

/-- A ratio `a + b/c` (30_encoding.md R74). -/
structure Ratio where
  a : Nat
  b : Nat
  c : Nat
  deriving DecidableEq, Repr

/-- `FOUT` over the rationals, undefined outside "`pll_c != 0`, `ms_c != 0` and `ms_a*ms_c + ms_b != 0`" (R170). The
argument WB names `vco_hz` is the reference frequency (C12). -/
def fout (vcoHz : Rat) (pll ms : Ratio) : Option Rat :=
  if pll.c ≠ 0 ∧ ms.c ≠ 0 ∧ ms.a * ms.c + ms.b ≠ 0 then
    some (vcoHz * (pll.a * pll.c + pll.b) * ms.c / (pll.c * (ms.a * ms.c + ms.b)))
  else none

end Machine
end Sys2Proof
end

