-- ==== Sys2Proof/Machine/HostProgram.lean ====
section
/-! DEFINITION. Host programs (30_encoding.md R65): the lines `SET`, `GET` and the commands as single host actions, and
the pseudo-instructions as lists of them. A program runs by standing in `State.inputs`. -/

namespace Sys2Proof
namespace Machine

/-- `SET reg, v`. -/
def setReg (r : RegName) (v : Nat) : Input := .write r.number v

/-- `GET reg`. -/
def getReg (r : RegName) : Input := .read r.number

/-- The line of a command: its byte written to `CMD`. -/
def issue (i : Instr) : Input := .write RegName.cmd.number (encode i).toNat

/-- `SETS CALL, "s"`, for a string of at most 16 bytes. -/
def setsCall (s : List Byte) : List Input :=
  setReg .clen s.length :: (List.finRange 16).filterMap fun k => s[k.val]?.map fun x => setReg (.call k) x.toNat

/-- `SETS GRID, "s"`. -/
def setsGrid (g : Vector Byte 4) : List Input := (List.finRange 4).map fun (k : Fin 4) => setReg (.grid k) g[k].toNat

/-- `SETR a, b, c`. -/
def setRatio (a b c : Nat) : List Input := [setReg .a a, setReg .b b, setReg .c c]

/-- `encode("cs", "grid", power)`. -/
def encodeCall (cs : List Byte) (g : Vector Byte 4) (power : Nat) : List Input :=
  setsCall cs ++ setsGrid g ++ [setReg .pwr power, issue .encode]

/-- `configure_pll(p, a, b, c)`. -/
def configurePll (p : Bit) (a b c : Nat) : List Input := setRatio a b c ++ [issue (.pllcfg p)]

/-- `configure_output_multisynth(n, a, b, c)`. -/
def configureOutputMultisynth (n : BitVec 2) (a b c : Nat) : List Input := setRatio a b c ++ [issue (.mscfg n)]

/-- `configure_output_driver(n, im, ps, inv, is, dr)`. -/
def configureOutputDriver (n : BitVec 2) (im ps inv is dr : Nat) : List Input :=
  [setReg .drvop (im * 64 + ps * 32 + inv * 16 + is * 4 + dr), issue (.drvcfg n)]

/-- `transmit_tone(n, band, off, p, corr)`, with the offset and the correction as patterns of `HzRepr`. -/
def transmitTone (n : BitVec 2) (band off : Nat) (p : Bit) (corr : Nat) : List Input :=
  [setReg .band band, setReg .offs off, setReg .corr corr, issue (.tone n p)]

end Machine
end Sys2Proof
end

