-- ==== Sys2Proof/Safety.lean ====
section
/-! DEFINITION. What a good state of the block is: the invariants of 10_state.md R36 and the promise about the
synthesizer's registers of 20_memory.md R41 and R46, in the terms the statements use. -/

namespace Sys2Proof
namespace Safety

open Sys2Proof.Machine

/-- The address ranges `PLLCFG`, `MSCFG` and `TONE` write, and the registers `DRVCFG` writes (20_memory.md R41). -/
def writable (cfg : Config) (addr : Byte) : Prop :=
  (∃ b ∈ cfg.par.raw.imageBases, b ≤ addr.toNat ∧ addr.toNat < b + 8) ∨ addr.toNat ∈ cfg.par.raw.ctrlRegs

/-- The registers the block reads (R41). -/
def readable (cfg : Config) (addr : Byte) : Prop := addr.toNat ∈ cfg.par.raw.ctrlRegs

/-- A bus event the block may produce (R41, R46): it stays inside the configured registers, below 200. -/
def eventOk (cfg : Config) : BusEvent → Prop
  | .write addr _ => writable cfg addr ∧ addr.toNat < Config.regCeil
  | .read addr _ => readable cfg addr ∧ addr.toNat < Config.regCeil

/-- Every event of the history is one the block may produce. -/
def busOk (s : State) : Prop := ∀ e ∈ s.busLog, eventOk s.cfg e

/-- `CSC`, `GRD`, `LPC` (R36): all without a value, or all with values inside the bounds the rules give, and
`LPC = GRD*128 + PWR' + 64` for a legal power `PWR'`. -/
def packOk (s : State) : Prop :=
  (s.csc = none ∧ s.grd = none ∧ s.lpc = none) ∨
  ∃ csc grd lpc power, s.csc = some csc ∧ s.grd = some grd ∧ s.lpc = some lpc ∧
    csc.toNat < 262374390 ∧ grd.toNat ≤ 32399 ∧ powerOk power ∧ lpc.toNat = grd.toNat * 128 + power + 64

/-- Every symbol carries its sync bit in bit 0 (R36, R21). -/
def symOk (s : State) : Prop :=
  ∀ i : Fin 162, ∀ x, s.sym[i] = some x → x.extractLsb' 0 1 = s.cfg.sync[i]

/-- The divider results (R36, R24, R25): all without a value, or `P2 < P3` (so `P3 >= 1`) and `IMG` the image of the
three, written at one of the configured bases. -/
def imageOk (s : State) : Prop :=
  (s.p1 = none ∧ s.p2 = none ∧ s.p3 = none ∧ s.imgbase = none ∧ s.img = Vector.replicate 8 none) ∨
  ∃ p1 p2 p3 base, s.p1 = some p1 ∧ s.p2 = some p2 ∧ s.p3 = some p3 ∧ s.imgbase = some base ∧
    s.img = (imageBytes p1 p2 p3).map some ∧ p2.toNat < p3.toNat ∧ base.toNat ∈ s.cfg.par.raw.imageBases

/-- A pattern of `OFFS` or `CORR` fits its width (10_state.md R28). -/
def hzFits (s : State) (v : Option Nat) : Prop := ∀ x, v = some x → x < 2 ^ s.cfg.par.raw.hz.width

/-- The invariant of the block. -/
structure BlockInv (s : State) : Prop where
  /-- No operation is in progress between steps (R10, R62). -/
  idle : s.busy = false
  offs : hzFits s s.offs
  corr : hzFits s s.corr
  pack : packOk s
  /-- `R0 = R1` (R18, R36). -/
  conv : s.r0 = s.r1
  sym : symOk s
  image : imageOk s
  bus : busOk s

end Safety
end Sys2Proof
end

