-- ==== Sys2Proof/Certificates/Slice0/Obligations.lean ====
section
/-! DEFINITION. The statements for the provers, from the numbered rules of spec/, with the few helper definitions their
texts share (written from the rules in numbers, not by the model's own functions). -/

open Sys2Proof Sys2Proof.Machine Sys2Proof.Safety

/-! ### Helpers of the statements -/

namespace Sys2Proof.Spec

/-- The state an operation ends in: the result code in `ERR`, `BUSY` low, all else as in `s` (30_encoding.md R62). -/
def ended (e : ErrCode) (s : State) : State := { s with err := e, busy := false }

/-- The twenty legal command bytes with what they stand for, 30_encoding.md R61. -/
def opcodeMap : List (Byte × Instr) :=
  [(0x10, .pack), (0x20, .conv), (0x30, .ilv), (0x40, .merge), (0x50, .encode), (0x60, .brev),
   (0x80, .pllcfg 0), (0x81, .pllcfg 1), (0x90, .mscfg 0), (0x91, .mscfg 1), (0x92, .mscfg 2),
   (0xA0, .drvcfg 0), (0xA1, .drvcfg 1), (0xA2, .drvcfg 2),
   (0xB0, .tone 0 0), (0xB1, .tone 1 0), (0xB2, .tone 2 0), (0xB4, .tone 0 1), (0xB5, .tone 1 1), (0xB6, .tone 2 1)]

/-- The register map, 10_state.md R11, row by row: the register, its number, its width, whether its host access is
"read, write", and what it holds in the state (a valueless element, and `CMD`, nothing). The width of `OFFS` and `CORR`
is open (`HzRepr`). -/
def registerMap (s : State) : List (RegName × Nat × Nat × Bool × Option Nat) :=
  [(.cmd, 0x000, 8, false, none), (.status, 0x001, 16, false, some (statusWord s).toNat),
   (.pwr, 0x002, 8, true, s.pwr.map BitVec.toNat), (.clen, 0x003, 8, true, s.clen.map BitVec.toNat),
   (.brv, 0x004, 8, true, s.brv.map BitVec.toNat), (.drvop, 0x005, 7, true, s.drvop.map BitVec.toNat),
   (.band, 0x006, 8, true, s.band.map BitVec.toNat), (.a, 0x008, 32, true, s.a.map BitVec.toNat),
   (.b, 0x009, 32, true, s.b.map BitVec.toNat), (.c, 0x00A, 32, true, s.c.map BitVec.toNat),
   (.offs, 0x00B, s.cfg.par.raw.hz.width, true, s.offs), (.corr, 0x00C, s.cfg.par.raw.hz.width, true, s.corr)] ++
  (List.finRange 16).map (fun k => (.call k, 0x010 + k.val, 8, true, s.call[k].map BitVec.toNat)) ++
  (List.finRange 4).map (fun k => (.grid k, 0x020 + k.val, 8, true, s.grid[k].map BitVec.toNat)) ++
  [(.csc, 0x028, 28, false, s.csc.map BitVec.toNat), (.grd, 0x029, 15, false, s.grd.map BitVec.toNat),
   (.lpc, 0x02A, 22, false, s.lpc.map BitVec.toNat)] ++
  (List.finRange 7).map (fun k => (.msg k, 0x030 + k.val, 8, true, s.msg[k].map BitVec.toNat)) ++
  [(.r0, 0x038, 32, false, s.r0.map BitVec.toNat), (.r1, 0x039, 32, false, s.r1.map BitVec.toNat),
   (.p1, 0x040, 18, false, s.p1.map BitVec.toNat), (.p2, 0x041, 20, false, s.p2.map BitVec.toNat),
   (.p3, 0x042, 20, false, s.p3.map BitVec.toNat), (.imgbase, 0x043, 8, false, s.imgbase.map BitVec.toNat)] ++
  (List.finRange 8).map (fun k => (.img k, 0x048 + k.val, 8, false, s.img[k].map BitVec.toNat)) ++
  (List.finRange 162).map (fun i => (.fec i, 0x100 + i.val, 1, true, s.fec[i].map BitVec.toNat)) ++
  (List.finRange 162).map (fun i => (.ilv i, 0x200 + i.val, 1, true, s.ilv[i].map BitVec.toNat)) ++
  (List.finRange 162).map (fun i => (.sym i, 0x300 + i.val, 2, false, s.sym[i].map BitVec.toNat))

/-- The tap positions of `POLY0`, 41_convolutional_encoder.md R113. -/
def taps0 : List Nat := [0, 4, 6, 8, 9, 12, 14, 20, 22, 23, 25, 28, 29, 30, 31]

/-- The tap positions of `POLY1`, R113. -/
def taps1 : List Nat := [0, 1, 2, 6, 10, 11, 12, 13, 16, 21, 22, 26, 29, 30, 31]

/-- Message bit `i` as the rule gives it (R110): bit `55 - i` of the 56-bit value of the seven bytes, 0 from 56 on. -/
def messageBit (m : Vector Byte 7) (i : Nat) : Bool :=
  decide (i < 56) && (m[0] ++ m[1] ++ m[2] ++ m[3] ++ m[4] ++ m[5] ++ m[6]).getLsbD (55 - i)

/-- XOR over the taps `k` of message bit `i - k`, with "`mbit(n) = 0` for `n < 0`" (R113). -/
def tapXor (taps : List Nat) (m : Vector Byte 7) (i : Nat) : Bool :=
  taps.foldl (fun acc k => acc ^^ (decide (k ≤ i) && messageBit m (i - k))) false

/-- The accepted scan indices `J` of 42_interleaver_sync_merge.md R122. -/
def accepted : List Nat := (List.range 256).filter fun j => (brev8 (BitVec.ofNat 8 j)).toNat < 162

/-- The eight bytes of an image in numbers, 30_encoding.md R75. -/
def imageNumbers (p1 p2 p3 : Nat) : Vector Byte 8 :=
  #v[p3 / 256, p3, p1 / 65536, p1 / 256, p1, p3 / 65536 * 16 + p2 / 65536, p2 / 256, p2].map (BitVec.ofNat 8)

/-- The eight write events of an image at a base address, ascending, 43_synth_dividers.md R145. -/
def imageEvents (base : Byte) (p1 p2 p3 : Nat) : List BusEvent :=
  let b := imageNumbers p1 p2 p3
  [.write base b[0], .write (base + 1) b[1], .write (base + 2) b[2], .write (base + 3) b[3],
   .write (base + 4) b[4], .write (base + 5) b[5], .write (base + 6) b[6], .write (base + 7) b[7]]

/-- The result registers an image fills, R145. -/
def imageStored (base : Byte) (p1 p2 p3 : Nat) (s : State) : State :=
  { s with
    p1 := some (BitVec.ofNat 18 p1), p2 := some (BitVec.ofNat 20 p2), p3 := some (BitVec.ofNat 20 p3),
    imgbase := some base, img := (imageNumbers p1 p2 p3).map some }

/-- The bus after `n` accesses, of which those that completed left `events`; `rest` are the answers not yet used. -/
def busAfter (events : List BusEvent) (n : Nat) (rest : List BusReply) (s : State) : State :=
  { s with busLog := s.busLog ++ events, busReplies := rest, busCount := s.busCount + n }

/-- `P1` of a ratio (43_synth_dividers.md R142; its two branches agree). -/
def fieldP1 (a b c : Nat) : Nat := 128 * a + 128 * b / c - 512

/-- `P2` of a ratio (R142). -/
def fieldP2 (b c : Nat) : Nat := 128 * b - c * (128 * b / c)

/-- The ENC unit's operations (00_scope.md R2). -/
def isEnc : Instr → Bool
  | .pack | .conv | .ilv | .merge | .encode | .brev => true
  | .pllcfg _ | .mscfg _ | .drvcfg _ | .tone _ _ => false

/-- The ratio test of `PLLCFG` or `MSCFG` in numbers (43_synth_dividers.md R141). -/
abbrev ratioLegal (aMin aMax a b c : Nat) : Prop := (aMin ≤ a ∧ a ≤ aMax) ∧ (0 < c ∧ c ≤ 0xFFFFF) ∧ b ≤ 0xFFFFF

/-- The operands of `PACK` are written, with these values (40_source_coding.md R99). -/
def packReads (s : State) (pwr clen : Byte) (call : List Byte) (grid : Vector Byte 4) : Prop :=
  s.pwr = some pwr ∧ s.clen = some clen ∧ s.call.toList.take clen.toNat = call.map some ∧ s.grid = grid.map some

/-- The callsign values pass the tests of R92 to R95: the string normalizes, `v` holds the value of each character in
order (so there are six), and the last three are symbols of the 27-symbol alphabet. -/
def callsignReads (clen : Byte) (call : List Byte) (v : Vector Nat 6) : Prop :=
  (∃ t, normalizeCallsign clen.toNat call = some t ∧ t.map cval = v.toList.map some) ∧
    10 ≤ v[3] ∧ 10 ≤ v[4] ∧ 10 ≤ v[5]

/-- `callsign_code` of 30_encoding.md R68. -/
def callsignNumber (v : Vector Nat 6) : Nat :=
  ((((v[0] * 36 + v[1]) * 10 + v[2]) * 27 + (v[3] - 10)) * 27 + (v[4] - 10)) * 27 + (v[5] - 10)

/-- `GRD` of 30_encoding.md R69, over the integers. -/
def gridNumber (g : Vector Byte 4) : Int :=
  (179 - 10 * ((g[0].toNat : Int) - 65) - ((g[2].toNat : Int) - 48)) * 180 + 10 * ((g[1].toNat : Int) - 65) +
    ((g[3].toNat : Int) - 48)

/-- The locator is two letters `'A'` to `'R'` and two digits (40_source_coding.md R97). -/
abbrev locatorLegal (g : Vector Byte 4) : Prop :=
  (65 ≤ g[0].toNat ∧ g[0].toNat ≤ 82) ∧ (65 ≤ g[1].toNat ∧ g[1].toNat ≤ 82) ∧
    (48 ≤ g[2].toNat ∧ g[2].toNat ≤ 57) ∧ (48 ≤ g[3].toNat ∧ g[3].toNat ≤ 57)

end Sys2Proof.Spec

open Sys2Proof.Spec

/-! ### Encoding -/

/-- 30_encoding.md R61, R64: each of the 256 bytes decodes to its row of the opcode map or is no command. -/
def Obligations.DecoderIsTheOpcodeMap : Prop :=
  ∀ b : Byte, (decode b).toOption = opcodeMap.lookup b

/-- Decoding and encoding agree (30_encoding.md section 1): a byte decodes to an instruction exactly when the
instruction is well formed and the byte is its encoding. -/
def Obligations.DecodeAndEncodeAgree : Prop :=
  ∀ (b : Byte) (i : Instr), decode b = .ok i ↔ (i.wf = true ∧ encode i = b)

/-- 10_state.md R11: every register has the number, the width and the host access of its row of the register map, and
its value is what that row's element of the state holds; a number names a register exactly when it is that register's
number, so every number outside the map is reserved. The other statements about host accesses speak of numbers, widths
and access through these. That the width of `OFFS` and `CORR` stands in the configuration is assumption log 3. -/
def Obligations.RegisterNumbersAgree : Prop :=
  (∀ (s : State) (r : RegName), (r, r.number.toNat, regWidth s r, r.readWrite, regValue s r) ∈ registerMap s) ∧
  ∀ (n : BitVec 12) (r : RegName), RegName.ofNumber n = some r ↔ r.number = n

/-! ### The step and the host port -/

/-- 30_encoding.md R62, steps 1 to 4: a `CMD` write of a legal byte while `BUSY = 0` runs the operation it encodes, in
the same step, with `BUSY` high while it runs.
The input list and the truncation of the datum are the model's choices (assumption log 8, 10). -/
def Obligations.StepRunsTheDecodedCommand : Prop :=
  ∀ (s : State) (v : Nat) (rest : List Input) (i : Instr),
    s.inputs = .write 0x000 v :: rest → s.busy = false → s.err ≠ .busFault →
    decode (BitVec.ofNat 8 v) = .ok i →
    step s = exec i { s with inputs := rest, busy := true }

/-- 60_exceptions.md R189: an illegal byte ends with `IllegalCommand` and changes nothing else.
The input list and the truncation are the model's (assumption log 8, 10). -/
def Obligations.IllegalByteOnlySetsErr : Prop :=
  ∀ (s : State) (v : Nat) (rest : List Input) (e : DecodeError),
    s.inputs = .write 0x000 v :: rest → s.busy = false → s.err ≠ .busFault →
    decode (BitVec.ofNat 8 v) = .error e →
    step s = .next { s with inputs := rest, err := .illegalCommand }

/-- 60_exceptions.md R191: in the stopped state a write to `CMD` is ignored.
The input list is the model's (assumption log 8). -/
def Obligations.StoppedBlockIgnoresCommands : Prop :=
  ∀ (s : State) (v : Nat) (rest : List Input),
    s.inputs = .write 0x000 v :: rest → s.busy = false → s.err = .busFault →
    step s = .next { s with inputs := rest }

/-- 60_exceptions.md R191: the stopped state lasts until reset; until then nothing the host cannot write changes and
no bus event occurs. -/
def Obligations.StoppedUntilReset : Prop :=
  ∀ s t : State, s.err = .busFault → (∀ rest, s.inputs ≠ .reset :: rest) → step s = .next t →
    t.err = .busFault ∧ t.busLog = s.busLog ∧
    ∀ r : RegName, r.readWrite = false → r ≠ .status → regValue t r = regValue s r

/-- 10_state.md R28: a host write to a read-write element sets it to the datum truncated to its width; no other
register changes (the valid flags of `STATUS` apart), and no bus event occurs.
The input list is the model's (assumption log 8), the width of `OFFS` and `CORR` the configuration's (log 3). -/
def Obligations.HostWriteSetsOneElement : Prop :=
  ∀ (s : State) (r : RegName) (v : Nat) (rest : List Input),
    s.inputs = .write r.number v :: rest → s.busy = false → r.readWrite = true →
    ∃ t, step s = .next t ∧ regValue t r = some (v % 2 ^ regWidth s r) ∧
      (∀ q : RegName, q ≠ r → q ≠ .status → regValue t q = regValue s q) ∧
      t.err = s.err ∧ t.busy = false ∧ t.busLog = s.busLog ∧ t.cfg = s.cfg ∧ t.inputs = rest ∧
      t.busReplies = s.busReplies ∧ t.busCount = s.busCount ∧ t.readCount = s.readCount ∧
      t.responses = s.responses

/-- 10_state.md R28: a host write to a read-only element, to `STATUS` or to a reserved number has no effect.
The input list is the model's (assumption log 8). -/
def Obligations.HostWriteElsewhereHasNoEffect : Prop :=
  ∀ (s : State) (n : BitVec 12) (v : Nat) (rest : List Input),
    s.inputs = .write n v :: rest → s.busy = false →
    (RegName.ofNumber n = none ∨ ∃ r, RegName.ofNumber n = some r ∧ r ≠ .cmd ∧ r.readWrite = false) →
    step s = .next { s with inputs := rest }

/-- 10_state.md R28: a host read of a written element, or of `STATUS`, returns its value zero-extended, and changes
nothing of the block.
The lists of inputs and responses are the model's (assumption log 8, 9). -/
def Obligations.HostReadReturnsTheValue : Prop :=
  ∀ (s : State) (n : BitVec 12) (r : RegName) (x : Nat) (rest : List Input),
    s.inputs = .read n :: rest → s.busy = false → RegName.ofNumber n = some r → regValue s r = some x →
    step s = .next { s with inputs := rest, readCount := s.readCount + 1, responses := s.responses ++ [(n, x)] }

/-- 10_state.md R29, R28: a host read of an element that holds no value returns some value of the element's width, and
one of `CMD` or of a reserved number some value (which one is the model's free value, and the lists of inputs and
responses are the model's: assumption log 8, 9); neither changes anything of the block. -/
def Obligations.HostReadOfNoValueFitsTheWidth : Prop :=
  ∀ (s : State) (n : BitVec 12) (rest : List Input), s.inputs = .read n :: rest → s.busy = false →
    (∀ r : RegName, RegName.ofNumber n = some r → r ≠ .cmd → regValue s r = none →
      ∃ x, x < 2 ^ regWidth s r ∧
        step s = .next { s with
          inputs := rest, readCount := s.readCount + 1, responses := s.responses ++ [(n, x)] }) ∧
    ((n = 0x000 ∨ RegName.ofNumber n = none) →
      ∃ x, step s = .next { s with
        inputs := rest, readCount := s.readCount + 1, responses := s.responses ++ [(n, x)] })

/-- 10_state.md R35, 70_reset_and_hazards.md R210, R211: reset leaves `STATUS = 0`, no element with a value, an empty
bus history and the block not stopped; it uses no bus access and does not touch the configuration.
Reset as an input, and what it leaves to the outside world, are the model's (assumption log 8, 13). -/
def Obligations.ResetLeavesNoValue : Prop :=
  (∀ (s : State) (rest : List Input), s.inputs = .reset :: rest → s.busy = false →
    ∃ t, step s = .next t ∧ statusWord t = 0 ∧ stopped t = false ∧ (∀ r, r ≠ .status → regValue t r = none) ∧
      t.busLog = [] ∧ t.cfg = s.cfg ∧ t.busReplies = s.busReplies ∧ t.busCount = s.busCount ∧ t.inputs = rest) ∧
  (statusWord State.reset = 0 ∧ (∀ r, r ≠ .status → regValue State.reset r = none) ∧ State.reset.busLog = [])

/-- 10_state.md R14: the fields of `STATUS`, with the numbers of the result codes from 60_exceptions.md R180. -/
def Obligations.StatusFields : Prop :=
  ∀ s : State,
    (s.err, ((statusWord s).extractLsb' 0 4).toNat) ∈
      [(ErrCode.ok, 0), (.invalidPower, 1), (.invalidCallsign, 2), (.invalidCharacter, 3), (.invalidLocator, 4),
       (.outOfRange, 5), (.unsupportedBand, 6), (.unrepresentable, 7), (.illegalCommand, 8), (.notReady, 9),
       (.busFault, 10)] ∧
    (statusWord s).getLsbD 4 = s.busy ∧
    ((statusWord s).getLsbD 5 = true ↔ ∀ k : Fin 7, s.msg[k] ≠ none) ∧
    ((statusWord s).getLsbD 6 = true ↔ ∀ i : Fin 162, s.fec[i] ≠ none) ∧
    ((statusWord s).getLsbD 7 = true ↔ ∀ i : Fin 162, s.ilv[i] ≠ none) ∧
    ((statusWord s).getLsbD 8 = true ↔ ∀ i : Fin 162, s.sym[i] ≠ none) ∧
    ((statusWord s).getLsbD 9 = true ↔
      s.p1 ≠ none ∧ s.p2 ≠ none ∧ s.p3 ≠ none ∧ s.imgbase ≠ none ∧ ∀ k : Fin 8, s.img[k] ≠ none) ∧
    (statusWord s).extractLsb' 10 6 = 0

/-! ### Written-bits and errors -/

/-- 60_exceptions.md R190: an operation that reads an element without a value ends with `NotReady` and changes nothing
else, whatever else is written. -/
def Obligations.UnwrittenOperandIsNotReady : Prop :=
  ∀ s : State,
    ((s.pwr = none ∨ s.clen = none ∨ (∃ k : Fin 4, s.grid[k] = none) ∨
        ∃ n, s.clen = some n ∧ ∃ k : Fin 16, k.val < n.toNat ∧ s.call[k] = none) →
      exec .pack s = .next (ended .notReady s) ∧ exec .encode s = .next (ended .notReady s)) ∧
    ((∃ k : Fin 7, s.msg[k] = none) → exec .conv s = .next (ended .notReady s)) ∧
    ((∃ i : Fin 162, s.fec[i] = none) → exec .ilv s = .next (ended .notReady s)) ∧
    ((∃ i : Fin 162, s.ilv[i] = none) → exec .merge s = .next (ended .notReady s)) ∧
    (s.brv = none → exec .brev s = .next (ended .notReady s)) ∧
    ((s.a = none ∨ s.b = none ∨ s.c = none) →
      (∀ pll, exec (.pllcfg pll) s = .next (ended .notReady s)) ∧
      ∀ ch, ch ≠ 3 → exec (.mscfg ch) s = .next (ended .notReady s)) ∧
    (s.drvop = none → ∀ ch, ch ≠ 3 → exec (.drvcfg ch) s = .next (ended .notReady s)) ∧
    ((s.band = none ∨ s.offs = none ∨ s.corr = none) →
      ∀ ch pll, ch ≠ 3 → exec (.tone ch pll) s = .next (ended .notReady s))

/-- 60_exceptions.md R184: a failed operation changes nothing but `ERR`, save for `TONE` failing in its PLL part and
for `BusFault`. -/
def Obligations.FailureChangesOnlyErr : Prop :=
  ∀ (i : Instr) (s t : State), exec i s = .next t → t.err ≠ .ok → t.err ≠ .busFault →
    (∀ ch pll, i = .tone ch pll → t.err ≠ .outOfRange ∧ t.err ≠ .unrepresentable) →
    t = ended t.err s

/-- 60_exceptions.md R180, the column "raised by": which codes an operation can end with. -/
def Obligations.EachOperationRaisesOnlyItsErrors : Prop :=
  ∀ (i : Instr) (s t : State), i.wf = true → exec i s = .next t →
    t.err = .ok ∨ t.err = .notReady ∨
    ((i = .pack ∨ i = .encode) ∧
      (t.err = .invalidPower ∨ t.err = .invalidCallsign ∨ t.err = .invalidCharacter ∨ t.err = .invalidLocator)) ∨
    (((∃ p, i = .pllcfg p) ∨ (∃ n, i = .mscfg n) ∨ ∃ n p, i = .tone n p) ∧
      (t.err = .outOfRange ∨ t.err = .unrepresentable ∨ t.err = .busFault)) ∨
    ((∃ n, i = .drvcfg n) ∧ t.err = .busFault) ∨
    ((∃ n p, i = .tone n p) ∧ t.err = .unsupportedBand)

/-- 70_reset_and_hazards.md R224: an operation always terminates, and `BUSY` is low when it has ended; and a host
access while `BUSY = 0` always has a next state (that no step is refused rests on assumption log 6 and 11). -/
def Obligations.EveryOperationEnds : Prop :=
  (∀ (i : Instr) (s : State), ∃ t, exec i s = .next t ∧ t.busy = false) ∧
  (∀ s : State, s.busy = false → ∃ t, step s = .next t)

/-! ### `PACK` -/

/-- 40_source_coding.md R99 with R96, R97, R98 and 30_encoding.md R70: `PACK` on legal operands.
ASCII: assumption log 14. -/
def Obligations.PackWritesTheMessage : Prop :=
  ∀ (s : State) (pwr clen : Byte) (call : List Byte) (grid : Vector Byte 4) (v : Vector Nat 6),
    packReads s pwr clen call grid → powerOk pwr.toNat → callsignReads clen call v → locatorLegal grid →
    exec .pack s = .next (ended .ok { s with
      csc := some (BitVec.ofNat 28 (callsignNumber v))
      grd := some (BitVec.ofInt 15 (gridNumber grid))
      lpc := some (BitVec.ofInt 22 (gridNumber grid * 128 + pwr.toNat + 64))
      msg := Vector.ofFn fun k => some (BitVec.ofInt 8
        ((callsignNumber v * 2 ^ 28 + (gridNumber grid * 128 + pwr.toNat + 64) * 2 ^ 6) / 2 ^ (48 - 8 * k.val))) })

/-- 40_source_coding.md R99 "Order of tests", 60_exceptions.md R187: `PACK` and `ENCODE` report the first failing test,
in the order power, normalization, characters, length and suffix, locator, and change nothing else.
ASCII, and `CLEN` above 16: assumption log 14, 18. -/
def Obligations.PackReportsTheFirstFailingTest : Prop :=
  ∀ (s : State) (pwr clen : Byte) (call : List Byte) (grid : Vector Byte 4), packReads s pwr clen call grid →
    ∀ i : Instr, i = .pack ∨ i = .encode →
    (¬ powerOk pwr.toNat → exec i s = .next (ended .invalidPower s)) ∧
    (powerOk pwr.toNat → normalizeCallsign clen.toNat call = none → exec i s = .next (ended .invalidCallsign s)) ∧
    (∀ t, powerOk pwr.toNat → normalizeCallsign clen.toNat call = some t → (∃ c ∈ t, cval c = none) →
      exec i s = .next (ended .invalidCharacter s)) ∧
    (∀ (t : List Byte) (v : List Nat), powerOk pwr.toNat → normalizeCallsign clen.toNat call = some t →
      t.map cval = v.map some →
      (v.length ≠ 6 ∨ ∃ k ∈ [3, 4, 5], v.getD k 0 < 10) → exec i s = .next (ended .invalidCallsign s)) ∧
    (∀ v, powerOk pwr.toNat → callsignReads clen call v → ¬ locatorLegal grid →
      exec i s = .next (ended .invalidLocator s))

/-- 40_source_coding.md R91: the legal powers. -/
def Obligations.LegalPowers : Prop :=
  ∀ p : Nat, powerOk p ↔ p ∈ [0, 3, 7, 10, 13, 17, 20, 23, 27, 30, 33, 37, 40, 43, 47, 50, 53, 57, 60]

/-- 40_source_coding.md R92: which callsigns normalize, and to what; the first digit in the order index 2, 1, 0
decides how many spaces are prepended, and longer results are not truncated.
ASCII: assumption log 14. -/
def Obligations.NormalizeFindsTheDigit : Prop :=
  ∀ (clen : Nat) (s : List Byte),
    let digit (k : Nat) : Prop := ∃ b : Byte, s[k]? = some b ∧ 0x30 ≤ b ∧ b ≤ 0x39
    let out (k : Nat) : List Byte :=
      List.replicate k 0x20 ++ s ++ List.replicate (6 - (s.length + k)) 0x20
    (16 < clen → normalizeCallsign clen s = none) ∧
    (clen ≤ 16 →
      (digit 2 → normalizeCallsign clen s = some (out 0)) ∧
      (¬ digit 2 → digit 1 → normalizeCallsign clen s = some (out 1)) ∧
      (¬ digit 2 → ¬ digit 1 → digit 0 → normalizeCallsign clen s = some (out 2)) ∧
      (¬ digit 2 → ¬ digit 1 → ¬ digit 0 → normalizeCallsign clen s = none))

/-- 30_encoding.md R67: the value of every byte. The byte values of the characters are presumed (ASCII: assumption
log 14). -/
def Obligations.CharacterValues : Prop :=
  ∀ b : Byte, cval b =
    if 0x30 ≤ b ∧ b ≤ 0x39 then some (b - 0x30).toNat
    else if 0x41 ≤ b ∧ b ≤ 0x5A then some ((b - 0x41).toNat + 10)
    else if b = 0x20 then some 36 else none

/-- 40_source_coding.md R100: every code fits its register, so no width cuts a value.
ASCII: assumption log 14. -/
def Obligations.PackedCodesFit : Prop :=
  (∀ (clen : Byte) (call : List Byte) (v : Vector Nat 6), callsignReads clen call v → callsignNumber v ≤ 262374389) ∧
  (∀ g : Vector Byte 4, locatorLegal g → 0 ≤ gridNumber g ∧ gridNumber g ≤ 32399) ∧
  (∀ (g : Vector Byte 4) (p : Nat), locatorLegal g → powerOk p →
    64 ≤ gridNumber g * 128 + p + 64 ∧ gridNumber g * 128 + p + 64 ≤ 4147196) ∧
  (∀ n m : Nat, n ≤ 262374389 → m ≤ 4147196 →
    messageValue n m = n * 2 ^ 28 + m * 2 ^ 6 ∧ messageValue n m < 2 ^ 56)

/-! ### `CONV` -/

/-- 41_convolutional_encoder.md R112 with the closed form R113: the FEC stream of every message, and both registers
left holding the last 32 message bits. -/
def Obligations.ConvIsTheTapCode : Prop :=
  ∀ (s : State) (m : Vector Byte 7), s.msg = m.map some →
    ∃ (r : BitVec 32) (fec : Vector Bit 162),
      exec .conv s = .next (ended .ok { s with r0 := some r, r1 := some r, fec := fec.map some }) ∧
      (∀ i : Fin 81, fec[2 * i.val] = BitVec.ofBool (tapXor taps0 m i) ∧
        fec[2 * i.val + 1] = BitVec.ofBool (tapXor taps1 m i)) ∧
      ∀ k : Fin 32, r.getLsbD k = messageBit m (80 - k)

/-- 41_convolutional_encoder.md R113: the code is linear over GF(2). -/
def Obligations.ConvIsLinear : Prop :=
  ∀ (s1 s2 s3 : State) (m1 m2 : Vector Byte 7),
    s1.msg = m1.map some → s2.msg = m2.map some → s3.msg = (Vector.zipWith (· ^^^ ·) m1 m2).map some →
    ∃ (t1 t2 t3 : State) (f1 f2 : Vector Bit 162),
      exec .conv s1 = .next t1 ∧ exec .conv s2 = .next t2 ∧ exec .conv s3 = .next t3 ∧
      t1.fec = f1.map some ∧ t2.fec = f2.map some ∧ t3.fec = (Vector.zipWith (· ^^^ ·) f1 f2).map some

/-! ### `BREV`, `ILV`, `MERGE` -/

/-- 42_interleaver_sync_merge.md R121 with R120: `BREV` needs `BRV`, reverses its bits and touches no other register;
a second one restores it. -/
def Obligations.BrevReversesBrv : Prop :=
  ∀ s : State, (s.brv = none → exec .brev s = .next (ended .notReady s)) ∧
    ∀ x : Byte, s.brv = some x →
      ∃ y : Byte, (∀ k : Fin 8, y.getLsbD k = x.getLsbD (7 - k)) ∧
        exec .brev s = .next (ended .ok { s with brv := some y }) ∧
        exec .brev (ended .ok { s with brv := some y }) = .next (ended .ok s)

/-- 42_interleaver_sync_merge.md R122: 162 indices are accepted, the last is 254, and their reversals are the
positions 0 to 161, each once. -/
def Obligations.InterleaverIsAPermutation : Prop :=
  accepted.length = 162 ∧ accepted.getLast? = some 254 ∧
  (accepted.map fun j => (brev8 (BitVec.ofNat 8 j)).toNat).Perm (List.range 162)

/-- 42_interleaver_sync_merge.md R124: `ILV` needs every `FEC` bit, and sends FEC bit `p` to the reversal of the
`p`-th accepted index (`ILV[dest(p)] <- FEC[p]`), so every element is written and none of the old array survives. -/
def Obligations.IlvPermutesTheStream : Prop :=
  ∀ s : State, ((∃ i : Fin 162, s.fec[i] = none) → exec .ilv s = .next (ended .notReady s)) ∧
    ∀ fec : Vector Bit 162, s.fec = fec.map some →
      ∃ out : Vector Bit 162, exec .ilv s = .next (ended .ok { s with ilv := out.map some }) ∧
        ∀ p : Fin 162, ∃ j, accepted[p.val]? = some j ∧ out[(brev8 (BitVec.ofNat 8 j)).toNat]? = some fec[p]

/-- 42_interleaver_sync_merge.md R128, R129: `MERGE` needs every `ILV` bit, and forms `SYNC[i] + 2*ILV[i]`, from which
sync bit and data bit are recovered. -/
def Obligations.MergeFormsTheSymbols : Prop :=
  ∀ s : State, ((∃ i : Fin 162, s.ilv[i] = none) → exec .merge s = .next (ended .notReady s)) ∧
    ∀ ilv : Vector Bit 162, s.ilv = ilv.map some →
      ∃ sym : Vector (BitVec 2) 162, exec .merge s = .next (ended .ok { s with sym := sym.map some }) ∧
        ∀ i : Fin 162, sym[i].toNat = s.cfg.sync[i].toNat + 2 * ilv[i].toNat ∧
          sym[i].toNat % 2 = s.cfg.sync[i].toNat ∧
          2 ∣ sym[i].toNat - s.cfg.sync[i].toNat ∧ (sym[i].toNat - s.cfg.sync[i].toNat) / 2 = ilv[i].toNat

/-! ### `ENCODE` -/

/-- 42_interleaver_sync_merge.md R131: where `PACK` succeeds, `ENCODE` leaves every register, written-bit and
`STATUS` field exactly as the sequence `PACK`; `CONV`; `ILV`; `MERGE` does; where `PACK` fails, `ENCODE` fails with the
same error and the same state. -/
def Obligations.EncodeEqualsTheSequence : Prop :=
  (∀ s t : State, exec .pack s = .next t → t.err = .ok →
    ∃ u v w, exec .conv t = .next u ∧ exec .ilv u = .next v ∧ exec .merge v = .next w ∧
      exec .encode s = .next w ∧ w.err = .ok) ∧
  (∀ s t : State, exec .pack s = .next t → t.err ≠ .ok → exec .encode s = .next t ∧ t = ended t.err s)

/-- 42_interleaver_sync_merge.md R130, R132: on legal operands `ENCODE` completes with 162 symbols, all valid flags of
the ENC unit set, and nothing outside its results changed.
ASCII: assumption log 14. -/
def Obligations.EncodeCompletes : Prop :=
  ∀ (s : State) (pwr clen : Byte) (call : List Byte) (grid : Vector Byte 4) (v : Vector Nat 6),
    packReads s pwr clen call grid → powerOk pwr.toNat → callsignReads clen call v → locatorLegal grid →
    ∃ t, exec .encode s = .next t ∧ t.err = .ok ∧ (∃ sym : Vector (BitVec 2) 162, t.sym = sym.map some) ∧
      msgv t = true ∧ fecv t = true ∧ ilvv t = true ∧ symv t = true ∧
      t = { s with
        err := .ok, busy := false, csc := t.csc, grd := t.grd, lpc := t.lpc, msg := t.msg, r0 := t.r0, r1 := t.r1,
        fec := t.fec, ilv := t.ilv, sym := t.sym }

/-- 42_interleaver_sync_merge.md R132: a successful `ENCODE` leaves exactly 162 symbols (two-bit values), and the
result is a function of the operands alone (for one sync vector). -/
def Obligations.EncodeDependsOnOperandsAlone : Prop :=
  ∀ s1 s2 t1 t2 : State, s1.cfg.sync = s2.cfg.sync → s1.pwr = s2.pwr → s1.clen = s2.clen → s1.grid = s2.grid →
    (∀ n, s1.clen = some n → ∀ k : Fin 16, k.val < n.toNat → s1.call[k] = s2.call[k]) →
    exec .encode s1 = .next t1 → exec .encode s2 = .next t2 →
    t1.err = t2.err ∧
    (t1.err = .ok →
      (∃ sym : Vector (BitVec 2) 162, t1.sym = sym.map some) ∧
      t1.sym = t2.sym ∧ t1.ilv = t2.ilv ∧ t1.fec = t2.fec ∧ t1.msg = t2.msg ∧
      t1.csc = t2.csc ∧ t1.grd = t2.grd ∧ t1.lpc = t2.lpc ∧ t1.r0 = t2.r0 ∧ t1.r1 = t2.r1)

/-! ### `PLLCFG` and `MSCFG` -/

/-- 43_synth_dividers.md R146 with R142, R145 and 30_encoding.md R75: a legal ratio whose `P1` fits, on a bus that
completes eight writes, leaves the fields, the image and its eight events at `PLL_BASE[pll]`.
The byte layout is presumed by the spec (assumption log 15), the list of bus answers the model's (log 5). -/
def Obligations.PllcfgWritesTheImage : Prop :=
  ∀ (s : State) (pll : Bit) (base : Byte) (a b c : BitVec 32) (ds : List Byte) (rest : List BusReply),
    s.cfg.par.raw.pllBase[pll.toNat]? = some base → s.a = some a → s.b = some b → s.c = some c →
    ratioLegal 15 90 a.toNat b.toNat c.toNat → fieldP1 a.toNat b.toNat c.toNat < 2 ^ 18 →
    ds.length = 8 → s.busReplies = ds.map .done ++ rest →
    exec (.pllcfg pll) s = .next (ended .ok (busAfter
      (imageEvents base (fieldP1 a.toNat b.toNat c.toNat) (fieldP2 b.toNat c.toNat) c.toNat) 8 rest
      (imageStored base (fieldP1 a.toNat b.toNat c.toNat) (fieldP2 b.toNat c.toNat) c.toNat s)))

/-- 43_synth_dividers.md R147: the same arithmetic for an output divider, with the range 4 to 2048, at
`MS_BASE[ch]`.
Byte layout and bus answers: assumption log 15, 5. -/
def Obligations.MscfgWritesTheImage : Prop :=
  ∀ (s : State) (ch : BitVec 2) (base : Byte) (a b c : BitVec 32) (ds : List Byte) (rest : List BusReply),
    s.cfg.par.raw.msBase[ch.toNat]? = some base → s.a = some a → s.b = some b → s.c = some c →
    ratioLegal 4 2048 a.toNat b.toNat c.toNat → fieldP1 a.toNat b.toNat c.toNat < 2 ^ 18 →
    ds.length = 8 → s.busReplies = ds.map .done ++ rest →
    exec (.mscfg ch) s = .next (ended .ok (busAfter
      (imageEvents base (fieldP1 a.toNat b.toNat c.toNat) (fieldP2 b.toNat c.toNat) c.toNat) 8 rest
      (imageStored base (fieldP1 a.toNat b.toNat c.toNat) (fieldP2 b.toNat c.toNat) c.toNat s)))

/-- 43_synth_dividers.md R141, R144: the range test; outside the range the operation ends with `OutOfRange`; a `P1` of
2^18 or more, which needs `b >= c`, with `Unrepresentable`; neither writes anything. -/
def Obligations.DividerErrorsWriteNothing : Prop :=
  (∀ a b c aMin aMax : Nat, ratioOk a b c aMin aMax = true ↔ ratioLegal aMin aMax a b c) ∧
  (∀ a b c : Nat, ratioLegal 4 2048 a b c → b < c → fieldP1 a b c < 2 ^ 18) ∧
  ∀ (s : State) (a b c : BitVec 32), s.a = some a → s.b = some b → s.c = some c →
    (∀ pll,
      (¬ ratioLegal 15 90 a.toNat b.toNat c.toNat → exec (.pllcfg pll) s = .next (ended .outOfRange s)) ∧
      (ratioLegal 15 90 a.toNat b.toNat c.toNat → 2 ^ 18 ≤ fieldP1 a.toNat b.toNat c.toNat →
        exec (.pllcfg pll) s = .next (ended .unrepresentable s))) ∧
    (∀ ch, ch ≠ 3 →
      (¬ ratioLegal 4 2048 a.toNat b.toNat c.toNat → exec (.mscfg ch) s = .next (ended .outOfRange s)) ∧
      (ratioLegal 4 2048 a.toNat b.toNat c.toNat → 2 ^ 18 ≤ fieldP1 a.toNat b.toNat c.toNat →
        exec (.mscfg ch) s = .next (ended .unrepresentable s)))

/-- 60_exceptions.md R191: when the bus fails the write after `k` completed ones, the result registers hold the new
image, the history the first `k` events, and the block is stopped.
Byte layout, bus answers, `BusFault` as a next state: assumption log 15, 5, 6. -/
def Obligations.BusFaultKeepsTheWritesMade : Prop :=
  ∀ (s : State) (base : Byte) (a b c : BitVec 32) (ds : List Byte) (rest : List BusReply),
    s.a = some a → s.b = some b → s.c = some c → fieldP1 a.toNat b.toNat c.toNat < 2 ^ 18 →
    ds.length < 8 → s.busReplies = ds.map .done ++ .failed :: rest →
    let t := ended .busFault (busAfter
      ((imageEvents base (fieldP1 a.toNat b.toNat c.toNat) (fieldP2 b.toNat c.toNat) c.toNat).take ds.length)
      (ds.length + 1) rest
      (imageStored base (fieldP1 a.toNat b.toNat c.toNat) (fieldP2 b.toNat c.toNat) c.toNat s))
    (∀ pll, s.cfg.par.raw.pllBase[pll.toNat]? = some base → ratioLegal 15 90 a.toNat b.toNat c.toNat →
      exec (.pllcfg pll) s = .next t) ∧
    (∀ ch, s.cfg.par.raw.msBase[ch.toNat]? = some base → ratioLegal 4 2048 a.toNat b.toNat c.toNat →
      exec (.mscfg ch) s = .next t)

/-- 43_synth_dividers.md R142, R143: the divider fields of a legal ratio and their widths; the two branches of the
rule agree, `P2` is the remainder, and with `b < c` nothing is unrepresentable. -/
def Obligations.DividerFieldsFit : Prop :=
  ∀ a b c : Nat, ratioLegal 4 2048 a b c →
    pfields a b c = (fieldP1 a b c, fieldP2 b c, c) ∧ fieldP2 b c = (128 * b) % c ∧ fieldP2 b c < c ∧
    c < 2 ^ 20 ∧ fieldP2 b c < 2 ^ 20 ∧ (fieldP1 a b c : Int) = 128 * a + (128 * b / c : Nat) - 512 ∧
    (b < c → fieldP1 a b c ≤ 261759)

/-! ### `DRVCFG` -/

/-- 44_synth_driver_tone.md R161 with 60_exceptions.md R191: `DRVCFG` needs `DRVOP`; it reads the control register,
keeps bit 7 of what the bus returns, takes the rest from `DRVOP`, and writes it back; it changes no register of the
block. A failed read leaves no event; a failed write leaves the read (R191).
The list of bus answers is the model's (assumption log 5), and so is `BusFault` as a next state (log 6). -/
def Obligations.DrvcfgKeepsTheEnableBit : Prop :=
  ∀ (s : State) (ch : BitVec 2) (reg : Byte), s.cfg.par.raw.clkCtrl[ch.toNat]? = some reg →
    (s.drvop = none → exec (.drvcfg ch) s = .next (ended .notReady s)) ∧
    ∀ (d : BitVec 7) (old x : Byte) (rest : List BusReply), s.drvop = some d →
      (s.busReplies = .done old :: .done x :: rest →
        exec (.drvcfg ch) s = .next (ended .ok (busAfter
          [.read reg old, .write reg (BitVec.ofNat 8 ((old.getLsbD 7).toNat * 128 + d.toNat))] 2 rest s))) ∧
      (s.busReplies = .failed :: rest → exec (.drvcfg ch) s = .next (ended .busFault (busAfter [] 1 rest s))) ∧
      (s.busReplies = .done old :: .failed :: rest →
        exec (.drvcfg ch) s = .next (ended .busFault (busAfter [.read reg old] 2 rest s)))

/-! ### `TONE` -/

/-- 44_synth_driver_tone.md R167 with R165, R166: a tone whose numerator is in range, on a bus that completes sixteen
writes: the multisynth image in integer mode, then the PLL image, which is what remains in the registers.
Byte layout, bus answers, hertz, ties: assumption log 15, 5, 3, 4. -/
def Obligations.ToneWritesBothImages : Prop :=
  ∀ (s : State) (ch : BitVec 2) (pll : Bit) (msBase pllBase band : Byte) (offs corr : Nat) (e : BandEntry) (b : Nat)
    (ds : List Byte) (rest : List BusReply),
    s.cfg.par.raw.msBase[ch.toNat]? = some msBase → s.cfg.par.raw.pllBase[pll.toNat]? = some pllBase →
    s.band = some band → s.offs = some offs → s.corr = some corr → (band, e) ∈ s.cfg.par.raw.bandTab →
    (b : Int) = e.baseB + roundHz ((hzOf s.cfg offs + hzOf s.cfg corr) * e.scale) → b ≤ 0xFFFFF →
    fieldP1 e.pllA b e.pllC < 2 ^ 18 → ds.length = 16 → s.busReplies = ds.map .done ++ rest →
    exec (.tone ch pll) s = .next (ended .ok (busAfter
      (imageEvents msBase (128 * e.msDiv - 512) 0 1 ++
        imageEvents pllBase (fieldP1 e.pllA b e.pllC) (fieldP2 b e.pllC) e.pllC) 16 rest
      (imageStored pllBase (fieldP1 e.pllA b e.pllC) (fieldP2 b e.pllC) e.pllC s)))

/-- 44_synth_driver_tone.md R167, 60_exceptions.md R184, 70_reset_and_hazards.md R218: a numerator outside
`0 .. 0xFFFFF`, or a `P1` of 2^18 or more, fails after the multisynth image was written and stored.
Byte layout, bus answers, hertz, ties: assumption log 15, 5, 3, 4. -/
def Obligations.ToneFailsHalfWay : Prop :=
  ∀ (s : State) (ch : BitVec 2) (pll : Bit) (msBase band : Byte) (offs corr : Nat) (e : BandEntry) (b : Int)
    (ds : List Byte) (rest : List BusReply),
    s.cfg.par.raw.msBase[ch.toNat]? = some msBase →
    s.band = some band → s.offs = some offs → s.corr = some corr → (band, e) ∈ s.cfg.par.raw.bandTab →
    b = e.baseB + roundHz ((hzOf s.cfg offs + hzOf s.cfg corr) * e.scale) →
    ds.length = 8 → s.busReplies = ds.map .done ++ rest →
    let half := busAfter (imageEvents msBase (128 * e.msDiv - 512) 0 1) 8 rest
      (imageStored msBase (128 * e.msDiv - 512) 0 1 s)
    ((b < 0 ∨ 0xFFFFF < b) → exec (.tone ch pll) s = .next (ended .outOfRange half)) ∧
    (0 ≤ b → b ≤ 0xFFFFF → 2 ^ 18 ≤ fieldP1 e.pllA b.toNat e.pllC →
      exec (.tone ch pll) s = .next (ended .unrepresentable half))

/-- 44_synth_driver_tone.md R165: a band key that is not in the table fails with `UnsupportedBand`, nothing written. -/
def Obligations.ToneUnsupportedBand : Prop :=
  ∀ (s : State) (ch : BitVec 2) (pll : Bit) (band : Byte) (offs corr : Nat), ch ≠ 3 →
    s.band = some band → s.offs = some offs → s.corr = some corr → (∀ e, (band, e) ∉ s.cfg.par.raw.bandTab) →
    exec (.tone ch pll) s = .next (ended .unsupportedBand s)

/-- 60_exceptions.md R191 for `TONE`: a bus failure inside the multisynth image, or, with a representable numerator,
inside the PLL image.
Byte layout, bus answers, hertz, ties, `BusFault` as a next state: assumption log 15, 5, 3, 4, 6. -/
def Obligations.ToneBusFaults : Prop :=
  ∀ (s : State) (ch : BitVec 2) (pll : Bit) (msBase pllBase band : Byte) (offs corr : Nat) (e : BandEntry)
    (ds : List Byte) (rest : List BusReply),
    s.cfg.par.raw.msBase[ch.toNat]? = some msBase → s.cfg.par.raw.pllBase[pll.toNat]? = some pllBase →
    s.band = some band → s.offs = some offs → s.corr = some corr → (band, e) ∈ s.cfg.par.raw.bandTab →
    s.busReplies = ds.map .done ++ .failed :: rest →
    (ds.length < 8 →
      exec (.tone ch pll) s = .next (ended .busFault (busAfter
        ((imageEvents msBase (128 * e.msDiv - 512) 0 1).take ds.length) (ds.length + 1) rest
        (imageStored msBase (128 * e.msDiv - 512) 0 1 s)))) ∧
    (∀ b : Nat, 8 ≤ ds.length → ds.length < 16 →
      (b : Int) = e.baseB + roundHz ((hzOf s.cfg offs + hzOf s.cfg corr) * e.scale) → b ≤ 0xFFFFF →
      fieldP1 e.pllA b e.pllC < 2 ^ 18 →
      exec (.tone ch pll) s = .next (ended .busFault (busAfter
        ((imageEvents msBase (128 * e.msDiv - 512) 0 1 ++
          imageEvents pllBase (fieldP1 e.pllA b e.pllC) (fieldP2 b e.pllC) e.pllC).take ds.length)
        (ds.length + 1) rest
        (imageStored pllBase (fieldP1 e.pllA b e.pllC) (fieldP2 b e.pllC) e.pllC s))))

/-- 00_scope.md R6, 44_synth_driver_tone.md R166: `round` is within one half of its argument and maps an integer to
itself, whatever it does at an exact half.
The tie is free: assumption log 4. -/
def Obligations.RoundIsWithinOneHalf : Prop :=
  (∀ x : Rat, |((roundHz x : Int) : Rat) - x| ≤ 1 / 2) ∧ (∀ n : Int, roundHz (n : Rat) = n)

/-- 44_synth_driver_tone.md R170: `FOUT` is `vco_hz * (pll_a + pll_b/pll_c) / (ms_a + ms_b/ms_c)` on its domain and
undefined outside it.
The ratios are triples of naturals (30_encoding.md R74); these types are assumption log 21. -/
def Obligations.FrequencyFormula : Prop :=
  ∀ (vco : Rat) (p m : Ratio),
    (p.c ≠ 0 → m.c ≠ 0 → m.a * m.c + m.b ≠ 0 →
      fout vco p m = some (vco * ((p.a : Rat) + (p.b : Rat) / (p.c : Rat)) /
        ((m.a : Rat) + (m.b : Rat) / (m.c : Rat)))) ∧
    ((p.c = 0 ∨ m.c = 0 ∨ m.a * m.c + m.b = 0) → fout vco p m = none)

/-! ### The whole machine -/

/-- 10_state.md R36 with R18, R24, R25 and 20_memory.md R41: every step keeps the invariant of the block
(`Safety.BlockInv`; the clauses on the widths of `OFFS` and `CORR` rest on assumption log 3). -/
def Obligations.StepKeepsTheInvariant : Prop :=
  ∀ s t : State, BlockInv s → step s = .next t → BlockInv t

/-- The invariant holds at reset. -/
def Obligations.ResetMeetsTheInvariant : Prop := BlockInv State.reset

/-- 20_memory.md R46, R41: every configuration keeps the addresses it names below 200, and, whatever the state, a step
adds no bus event at an address of 200 or above, and none outside the configured registers. -/
def Obligations.NeverTouchesRegistersAbove200 : Prop :=
  (∀ cfg : Config, (∀ b ∈ cfg.par.raw.imageBases, b + 7 < 200) ∧ ∀ r ∈ cfg.par.raw.ctrlRegs, r < 200) ∧
  ∀ s t : State, step s = .next t → ∀ e ∈ t.busLog, e ∈ s.busLog ∨ eventOk s.cfg e

/-- 20_memory.md R47: the bus history only grows, at its end, until reset; nothing reorders or drops an event. -/
def Obligations.BusHistoryOnlyGrows : Prop :=
  ∀ s t : State, step s = .next t → (∀ rest, s.inputs ≠ .reset :: rest) → ∃ events, t.busLog = s.busLog ++ events

/-- 10_state.md R12: nothing but reset clears a written-bit. -/
def Obligations.WrittenStaysWritten : Prop :=
  ∀ (s t : State) (r : RegName), step s = .next t → (∀ rest, s.inputs ≠ .reset :: rest) →
    regValue s r ≠ none → regValue t r ≠ none

/-- 10_state.md R10: no step changes the configuration.
That the configuration stands in State is the model's choice (assumption log 1). -/
def Obligations.ConfigurationNeverChanges : Prop :=
  ∀ s t : State, step s = .next t → t.cfg = s.cfg

/-- 20_memory.md R40: the ENC unit reaches no address space, and writes no register of the SYN unit; 10_state.md R11,
60_exceptions.md R200: no SYN operation writes an ENC register. -/
def Obligations.UnitsShareNoRegister : Prop :=
  ∀ (i : Instr) (s t : State), exec i s = .next t →
    (isEnc i = true →
      t.busLog = s.busLog ∧ t.busReplies = s.busReplies ∧ t.busCount = s.busCount ∧ t.p1 = s.p1 ∧ t.p2 = s.p2 ∧
      t.p3 = s.p3 ∧ t.imgbase = s.imgbase ∧ t.img = s.img) ∧
    (isEnc i = false →
      t.csc = s.csc ∧ t.grd = s.grd ∧ t.lpc = s.lpc ∧ t.msg = s.msg ∧ t.r0 = s.r0 ∧ t.r1 = s.r1 ∧ t.fec = s.fec ∧
      t.ilv = s.ilv ∧ t.sym = s.sym ∧ t.brv = s.brv)

/-- 10_state.md R11: the eleven registers of which the column "written by operations" says "none" (`CMD`, which holds
nothing, apart) are written by no operation: `PWR`, `CLEN`, `CALL`, `GRID`, `DRVOP`, `BAND`, `A`, `B`, `C`, `OFFS`,
`CORR`. Nor does one touch the configuration (R10), or the model's lists of inputs and responses (assumption log 1, 8,
9). `BRV` is no such register (R22), and the bus's answers are used up by SYN operations. -/
def Obligations.OperandRegistersAreNeverWritten : Prop :=
  ∀ (i : Instr) (s t : State), exec i s = .next t →
    t.pwr = s.pwr ∧ t.clen = s.clen ∧ t.call = s.call ∧ t.grid = s.grid ∧ t.drvop = s.drvop ∧ t.band = s.band ∧
    t.a = s.a ∧ t.b = s.b ∧ t.c = s.c ∧ t.offs = s.offs ∧ t.corr = s.corr ∧ t.cfg = s.cfg ∧ t.inputs = s.inputs ∧
    t.readCount = s.readCount ∧ t.responses = s.responses

/-- 70_reset_and_hazards.md R213, from 10_state.md R11, for `exec`: executing an ENC and a SYN operation in either
order gives the same end state (`ERR`, which each overwrites, apart). It is no claim about commands: the host port
ignores an ENC command that follows a `BusFault` (60_exceptions.md R191). -/
def Obligations.UnitsCommute : Prop :=
  ∀ (i j : Instr) (s : State), isEnc i = true → isEnc j = false →
    ∃ t u t' u', exec i s = .next t ∧ exec j t = .next u ∧ exec j s = .next t' ∧ exec i t' = .next u' ∧
      { u with err := .ok } = { u' with err := .ok } ∧ t.err = u'.err ∧ u.err = t'.err

/-- 10_state.md R14 with the "Flags" of each operation rule: after a successful operation its valid flag is 1. -/
def Obligations.ValidFlagsAfterSuccess : Prop :=
  ∀ s t : State,
    (exec .pack s = .next t → t.err = .ok → msgv t = true) ∧
    (exec .conv s = .next t → t.err = .ok → fecv t = true) ∧
    (exec .ilv s = .next t → t.err = .ok → ilvv t = true) ∧
    (exec .merge s = .next t → t.err = .ok → symv t = true) ∧
    (∀ i, ((∃ p, i = .pllcfg p) ∨ (∃ n, i = .mscfg n) ∨ ∃ n p, i = .tone n p) →
      exec i s = .next t → t.err = .ok → pv t = true)

/-- 70_reset_and_hazards.md R216: the valid flags do not track staleness: a host write of an operand of `PACK` leaves
`SYM` and the four flags of the ENC unit as they were.
The input list is the model's (assumption log 8). -/
def Obligations.StalenessIsNotTracked : Prop :=
  ∀ (s t : State) (r : RegName) (v : Nat) (rest : List Input),
    s.inputs = .write r.number v :: rest → s.busy = false →
    (r = .pwr ∨ r = .clen ∨ (∃ k, r = .call k) ∨ ∃ k, r = .grid k) → step s = .next t →
    t.sym = s.sym ∧ msgv t = msgv s ∧ fecv t = fecv s ∧ ilvv t = ilvv s ∧ symv t = symv s ∧ t.err = s.err
end

