-- ==== Sys2Proof/Laws/State.lean ====
section
/-! SUPPORT. One lemma per field per update of the state, so that no later proof unfolds a record update. -/

namespace Sys2Proof
namespace Machine

/-! ### `consumeReply`: a bus access uses up its answer and changes nothing else -/

section
variable (s : State)

@[simp] theorem consumeReply_cfg : (consumeReply s).cfg = s.cfg := rfl
@[simp] theorem consumeReply_err : (consumeReply s).err = s.err := rfl
@[simp] theorem consumeReply_busy : (consumeReply s).busy = s.busy := rfl
@[simp] theorem consumeReply_pwr : (consumeReply s).pwr = s.pwr := rfl
@[simp] theorem consumeReply_clen : (consumeReply s).clen = s.clen := rfl
@[simp] theorem consumeReply_brv : (consumeReply s).brv = s.brv := rfl
@[simp] theorem consumeReply_drvop : (consumeReply s).drvop = s.drvop := rfl
@[simp] theorem consumeReply_band : (consumeReply s).band = s.band := rfl
@[simp] theorem consumeReply_a : (consumeReply s).a = s.a := rfl
@[simp] theorem consumeReply_b : (consumeReply s).b = s.b := rfl
@[simp] theorem consumeReply_c : (consumeReply s).c = s.c := rfl
@[simp] theorem consumeReply_offs : (consumeReply s).offs = s.offs := rfl
@[simp] theorem consumeReply_corr : (consumeReply s).corr = s.corr := rfl
@[simp] theorem consumeReply_call : (consumeReply s).call = s.call := rfl
@[simp] theorem consumeReply_grid : (consumeReply s).grid = s.grid := rfl
@[simp] theorem consumeReply_csc : (consumeReply s).csc = s.csc := rfl
@[simp] theorem consumeReply_grd : (consumeReply s).grd = s.grd := rfl
@[simp] theorem consumeReply_lpc : (consumeReply s).lpc = s.lpc := rfl
@[simp] theorem consumeReply_msg : (consumeReply s).msg = s.msg := rfl
@[simp] theorem consumeReply_r0 : (consumeReply s).r0 = s.r0 := rfl
@[simp] theorem consumeReply_r1 : (consumeReply s).r1 = s.r1 := rfl
@[simp] theorem consumeReply_p1 : (consumeReply s).p1 = s.p1 := rfl
@[simp] theorem consumeReply_p2 : (consumeReply s).p2 = s.p2 := rfl
@[simp] theorem consumeReply_p3 : (consumeReply s).p3 = s.p3 := rfl
@[simp] theorem consumeReply_imgbase : (consumeReply s).imgbase = s.imgbase := rfl
@[simp] theorem consumeReply_img : (consumeReply s).img = s.img := rfl
@[simp] theorem consumeReply_fec : (consumeReply s).fec = s.fec := rfl
@[simp] theorem consumeReply_ilv : (consumeReply s).ilv = s.ilv := rfl
@[simp] theorem consumeReply_sym : (consumeReply s).sym = s.sym := rfl
@[simp] theorem consumeReply_busLog : (consumeReply s).busLog = s.busLog := rfl
@[simp] theorem consumeReply_inputs : (consumeReply s).inputs = s.inputs := rfl
@[simp] theorem consumeReply_busReplies : (consumeReply s).busReplies = s.busReplies.tail := rfl
@[simp] theorem consumeReply_busCount : (consumeReply s).busCount = s.busCount + 1 := rfl
@[simp] theorem consumeReply_readCount : (consumeReply s).readCount = s.readCount := rfl
@[simp] theorem consumeReply_responses : (consumeReply s).responses = s.responses := rfl

end

/-! ### `logEvent`: a logged event joins the history and changes nothing else -/

section
variable (e : BusEvent) (s : State)

@[simp] theorem logEvent_cfg : (logEvent e s).cfg = s.cfg := rfl
@[simp] theorem logEvent_err : (logEvent e s).err = s.err := rfl
@[simp] theorem logEvent_busy : (logEvent e s).busy = s.busy := rfl
@[simp] theorem logEvent_pwr : (logEvent e s).pwr = s.pwr := rfl
@[simp] theorem logEvent_clen : (logEvent e s).clen = s.clen := rfl
@[simp] theorem logEvent_brv : (logEvent e s).brv = s.brv := rfl
@[simp] theorem logEvent_drvop : (logEvent e s).drvop = s.drvop := rfl
@[simp] theorem logEvent_band : (logEvent e s).band = s.band := rfl
@[simp] theorem logEvent_a : (logEvent e s).a = s.a := rfl
@[simp] theorem logEvent_b : (logEvent e s).b = s.b := rfl
@[simp] theorem logEvent_c : (logEvent e s).c = s.c := rfl
@[simp] theorem logEvent_offs : (logEvent e s).offs = s.offs := rfl
@[simp] theorem logEvent_corr : (logEvent e s).corr = s.corr := rfl
@[simp] theorem logEvent_call : (logEvent e s).call = s.call := rfl
@[simp] theorem logEvent_grid : (logEvent e s).grid = s.grid := rfl
@[simp] theorem logEvent_csc : (logEvent e s).csc = s.csc := rfl
@[simp] theorem logEvent_grd : (logEvent e s).grd = s.grd := rfl
@[simp] theorem logEvent_lpc : (logEvent e s).lpc = s.lpc := rfl
@[simp] theorem logEvent_msg : (logEvent e s).msg = s.msg := rfl
@[simp] theorem logEvent_r0 : (logEvent e s).r0 = s.r0 := rfl
@[simp] theorem logEvent_r1 : (logEvent e s).r1 = s.r1 := rfl
@[simp] theorem logEvent_p1 : (logEvent e s).p1 = s.p1 := rfl
@[simp] theorem logEvent_p2 : (logEvent e s).p2 = s.p2 := rfl
@[simp] theorem logEvent_p3 : (logEvent e s).p3 = s.p3 := rfl
@[simp] theorem logEvent_imgbase : (logEvent e s).imgbase = s.imgbase := rfl
@[simp] theorem logEvent_img : (logEvent e s).img = s.img := rfl
@[simp] theorem logEvent_fec : (logEvent e s).fec = s.fec := rfl
@[simp] theorem logEvent_ilv : (logEvent e s).ilv = s.ilv := rfl
@[simp] theorem logEvent_sym : (logEvent e s).sym = s.sym := rfl
@[simp] theorem logEvent_busLog : (logEvent e s).busLog = s.busLog ++ [e] := rfl
@[simp] theorem logEvent_inputs : (logEvent e s).inputs = s.inputs := rfl
@[simp] theorem logEvent_busReplies : (logEvent e s).busReplies = s.busReplies := rfl
@[simp] theorem logEvent_busCount : (logEvent e s).busCount = s.busCount := rfl
@[simp] theorem logEvent_readCount : (logEvent e s).readCount = s.readCount := rfl
@[simp] theorem logEvent_responses : (logEvent e s).responses = s.responses := rfl

end

/-! ### `storePacked`: the writes of `PACK` (40_source_coding.md R99) -/

section
variable (r : Packed) (s : State)

@[simp] theorem storePacked_cfg : (storePacked r s).cfg = s.cfg := rfl
@[simp] theorem storePacked_err : (storePacked r s).err = s.err := rfl
@[simp] theorem storePacked_busy : (storePacked r s).busy = s.busy := rfl
@[simp] theorem storePacked_pwr : (storePacked r s).pwr = s.pwr := rfl
@[simp] theorem storePacked_clen : (storePacked r s).clen = s.clen := rfl
@[simp] theorem storePacked_brv : (storePacked r s).brv = s.brv := rfl
@[simp] theorem storePacked_drvop : (storePacked r s).drvop = s.drvop := rfl
@[simp] theorem storePacked_band : (storePacked r s).band = s.band := rfl
@[simp] theorem storePacked_a : (storePacked r s).a = s.a := rfl
@[simp] theorem storePacked_b : (storePacked r s).b = s.b := rfl
@[simp] theorem storePacked_c : (storePacked r s).c = s.c := rfl
@[simp] theorem storePacked_offs : (storePacked r s).offs = s.offs := rfl
@[simp] theorem storePacked_corr : (storePacked r s).corr = s.corr := rfl
@[simp] theorem storePacked_call : (storePacked r s).call = s.call := rfl
@[simp] theorem storePacked_grid : (storePacked r s).grid = s.grid := rfl
@[simp] theorem storePacked_csc : (storePacked r s).csc = some r.csc := rfl
@[simp] theorem storePacked_grd : (storePacked r s).grd = some r.grd := rfl
@[simp] theorem storePacked_lpc : (storePacked r s).lpc = some r.lpc := rfl
@[simp] theorem storePacked_msg : (storePacked r s).msg = r.msg.map some := rfl
@[simp] theorem storePacked_r0 : (storePacked r s).r0 = s.r0 := rfl
@[simp] theorem storePacked_r1 : (storePacked r s).r1 = s.r1 := rfl
@[simp] theorem storePacked_p1 : (storePacked r s).p1 = s.p1 := rfl
@[simp] theorem storePacked_p2 : (storePacked r s).p2 = s.p2 := rfl
@[simp] theorem storePacked_p3 : (storePacked r s).p3 = s.p3 := rfl
@[simp] theorem storePacked_imgbase : (storePacked r s).imgbase = s.imgbase := rfl
@[simp] theorem storePacked_img : (storePacked r s).img = s.img := rfl
@[simp] theorem storePacked_fec : (storePacked r s).fec = s.fec := rfl
@[simp] theorem storePacked_ilv : (storePacked r s).ilv = s.ilv := rfl
@[simp] theorem storePacked_sym : (storePacked r s).sym = s.sym := rfl
@[simp] theorem storePacked_busLog : (storePacked r s).busLog = s.busLog := rfl
@[simp] theorem storePacked_inputs : (storePacked r s).inputs = s.inputs := rfl
@[simp] theorem storePacked_busReplies : (storePacked r s).busReplies = s.busReplies := rfl
@[simp] theorem storePacked_busCount : (storePacked r s).busCount = s.busCount := rfl
@[simp] theorem storePacked_readCount : (storePacked r s).readCount = s.readCount := rfl
@[simp] theorem storePacked_responses : (storePacked r s).responses = s.responses := rfl

end

/-! ### `storeConv`: the writes of `CONV` (41_convolutional_encoder.md R112) -/

section
variable (r : BitVec 32 × BitVec 32 × Vector Bit 162) (s : State)

@[simp] theorem storeConv_cfg : (storeConv r s).cfg = s.cfg := rfl
@[simp] theorem storeConv_err : (storeConv r s).err = s.err := rfl
@[simp] theorem storeConv_busy : (storeConv r s).busy = s.busy := rfl
@[simp] theorem storeConv_pwr : (storeConv r s).pwr = s.pwr := rfl
@[simp] theorem storeConv_clen : (storeConv r s).clen = s.clen := rfl
@[simp] theorem storeConv_brv : (storeConv r s).brv = s.brv := rfl
@[simp] theorem storeConv_drvop : (storeConv r s).drvop = s.drvop := rfl
@[simp] theorem storeConv_band : (storeConv r s).band = s.band := rfl
@[simp] theorem storeConv_a : (storeConv r s).a = s.a := rfl
@[simp] theorem storeConv_b : (storeConv r s).b = s.b := rfl
@[simp] theorem storeConv_c : (storeConv r s).c = s.c := rfl
@[simp] theorem storeConv_offs : (storeConv r s).offs = s.offs := rfl
@[simp] theorem storeConv_corr : (storeConv r s).corr = s.corr := rfl
@[simp] theorem storeConv_call : (storeConv r s).call = s.call := rfl
@[simp] theorem storeConv_grid : (storeConv r s).grid = s.grid := rfl
@[simp] theorem storeConv_csc : (storeConv r s).csc = s.csc := rfl
@[simp] theorem storeConv_grd : (storeConv r s).grd = s.grd := rfl
@[simp] theorem storeConv_lpc : (storeConv r s).lpc = s.lpc := rfl
@[simp] theorem storeConv_msg : (storeConv r s).msg = s.msg := rfl
@[simp] theorem storeConv_r0 : (storeConv r s).r0 = some r.1 := rfl
@[simp] theorem storeConv_r1 : (storeConv r s).r1 = some r.2.1 := rfl
@[simp] theorem storeConv_p1 : (storeConv r s).p1 = s.p1 := rfl
@[simp] theorem storeConv_p2 : (storeConv r s).p2 = s.p2 := rfl
@[simp] theorem storeConv_p3 : (storeConv r s).p3 = s.p3 := rfl
@[simp] theorem storeConv_imgbase : (storeConv r s).imgbase = s.imgbase := rfl
@[simp] theorem storeConv_img : (storeConv r s).img = s.img := rfl
@[simp] theorem storeConv_fec : (storeConv r s).fec = r.2.2.map some := rfl
@[simp] theorem storeConv_ilv : (storeConv r s).ilv = s.ilv := rfl
@[simp] theorem storeConv_sym : (storeConv r s).sym = s.sym := rfl
@[simp] theorem storeConv_busLog : (storeConv r s).busLog = s.busLog := rfl
@[simp] theorem storeConv_inputs : (storeConv r s).inputs = s.inputs := rfl
@[simp] theorem storeConv_busReplies : (storeConv r s).busReplies = s.busReplies := rfl
@[simp] theorem storeConv_busCount : (storeConv r s).busCount = s.busCount := rfl
@[simp] theorem storeConv_readCount : (storeConv r s).readCount = s.readCount := rfl
@[simp] theorem storeConv_responses : (storeConv r s).responses = s.responses := rfl

end

/-! ### `storeImage`: the writes of an image (43_synth_dividers.md R145) -/

section
variable (base : Byte) (p1 : BitVec 18) (p2 p3 : BitVec 20) (s : State)

@[simp] theorem storeImage_cfg : (storeImage base p1 p2 p3 s).cfg = s.cfg := rfl
@[simp] theorem storeImage_err : (storeImage base p1 p2 p3 s).err = s.err := rfl
@[simp] theorem storeImage_busy : (storeImage base p1 p2 p3 s).busy = s.busy := rfl
@[simp] theorem storeImage_pwr : (storeImage base p1 p2 p3 s).pwr = s.pwr := rfl
@[simp] theorem storeImage_clen : (storeImage base p1 p2 p3 s).clen = s.clen := rfl
@[simp] theorem storeImage_brv : (storeImage base p1 p2 p3 s).brv = s.brv := rfl
@[simp] theorem storeImage_drvop : (storeImage base p1 p2 p3 s).drvop = s.drvop := rfl
@[simp] theorem storeImage_band : (storeImage base p1 p2 p3 s).band = s.band := rfl
@[simp] theorem storeImage_a : (storeImage base p1 p2 p3 s).a = s.a := rfl
@[simp] theorem storeImage_b : (storeImage base p1 p2 p3 s).b = s.b := rfl
@[simp] theorem storeImage_c : (storeImage base p1 p2 p3 s).c = s.c := rfl
@[simp] theorem storeImage_offs : (storeImage base p1 p2 p3 s).offs = s.offs := rfl
@[simp] theorem storeImage_corr : (storeImage base p1 p2 p3 s).corr = s.corr := rfl
@[simp] theorem storeImage_call : (storeImage base p1 p2 p3 s).call = s.call := rfl
@[simp] theorem storeImage_grid : (storeImage base p1 p2 p3 s).grid = s.grid := rfl
@[simp] theorem storeImage_csc : (storeImage base p1 p2 p3 s).csc = s.csc := rfl
@[simp] theorem storeImage_grd : (storeImage base p1 p2 p3 s).grd = s.grd := rfl
@[simp] theorem storeImage_lpc : (storeImage base p1 p2 p3 s).lpc = s.lpc := rfl
@[simp] theorem storeImage_msg : (storeImage base p1 p2 p3 s).msg = s.msg := rfl
@[simp] theorem storeImage_r0 : (storeImage base p1 p2 p3 s).r0 = s.r0 := rfl
@[simp] theorem storeImage_r1 : (storeImage base p1 p2 p3 s).r1 = s.r1 := rfl
@[simp] theorem storeImage_p1 : (storeImage base p1 p2 p3 s).p1 = some p1 := rfl
@[simp] theorem storeImage_p2 : (storeImage base p1 p2 p3 s).p2 = some p2 := rfl
@[simp] theorem storeImage_p3 : (storeImage base p1 p2 p3 s).p3 = some p3 := rfl
@[simp] theorem storeImage_imgbase : (storeImage base p1 p2 p3 s).imgbase = some base := rfl
@[simp] theorem storeImage_img : (storeImage base p1 p2 p3 s).img = (imageBytes p1 p2 p3).map some := rfl
@[simp] theorem storeImage_fec : (storeImage base p1 p2 p3 s).fec = s.fec := rfl
@[simp] theorem storeImage_ilv : (storeImage base p1 p2 p3 s).ilv = s.ilv := rfl
@[simp] theorem storeImage_sym : (storeImage base p1 p2 p3 s).sym = s.sym := rfl
@[simp] theorem storeImage_busLog : (storeImage base p1 p2 p3 s).busLog = s.busLog := rfl
@[simp] theorem storeImage_inputs : (storeImage base p1 p2 p3 s).inputs = s.inputs := rfl
@[simp] theorem storeImage_busReplies : (storeImage base p1 p2 p3 s).busReplies = s.busReplies := rfl
@[simp] theorem storeImage_busCount : (storeImage base p1 p2 p3 s).busCount = s.busCount := rfl
@[simp] theorem storeImage_readCount : (storeImage base p1 p2 p3 s).readCount = s.readCount := rfl
@[simp] theorem storeImage_responses : (storeImage base p1 p2 p3 s).responses = s.responses := rfl

end

/-! ### `hostRead`: a host read changes only what the host has read (10_state.md R28) -/

section
variable (n : BitVec 12) (s : State)

@[simp] theorem hostRead_cfg : (hostRead n s).cfg = s.cfg := rfl
@[simp] theorem hostRead_err : (hostRead n s).err = s.err := rfl
@[simp] theorem hostRead_busy : (hostRead n s).busy = s.busy := rfl
@[simp] theorem hostRead_pwr : (hostRead n s).pwr = s.pwr := rfl
@[simp] theorem hostRead_clen : (hostRead n s).clen = s.clen := rfl
@[simp] theorem hostRead_brv : (hostRead n s).brv = s.brv := rfl
@[simp] theorem hostRead_drvop : (hostRead n s).drvop = s.drvop := rfl
@[simp] theorem hostRead_band : (hostRead n s).band = s.band := rfl
@[simp] theorem hostRead_a : (hostRead n s).a = s.a := rfl
@[simp] theorem hostRead_b : (hostRead n s).b = s.b := rfl
@[simp] theorem hostRead_c : (hostRead n s).c = s.c := rfl
@[simp] theorem hostRead_offs : (hostRead n s).offs = s.offs := rfl
@[simp] theorem hostRead_corr : (hostRead n s).corr = s.corr := rfl
@[simp] theorem hostRead_call : (hostRead n s).call = s.call := rfl
@[simp] theorem hostRead_grid : (hostRead n s).grid = s.grid := rfl
@[simp] theorem hostRead_csc : (hostRead n s).csc = s.csc := rfl
@[simp] theorem hostRead_grd : (hostRead n s).grd = s.grd := rfl
@[simp] theorem hostRead_lpc : (hostRead n s).lpc = s.lpc := rfl
@[simp] theorem hostRead_msg : (hostRead n s).msg = s.msg := rfl
@[simp] theorem hostRead_r0 : (hostRead n s).r0 = s.r0 := rfl
@[simp] theorem hostRead_r1 : (hostRead n s).r1 = s.r1 := rfl
@[simp] theorem hostRead_p1 : (hostRead n s).p1 = s.p1 := rfl
@[simp] theorem hostRead_p2 : (hostRead n s).p2 = s.p2 := rfl
@[simp] theorem hostRead_p3 : (hostRead n s).p3 = s.p3 := rfl
@[simp] theorem hostRead_imgbase : (hostRead n s).imgbase = s.imgbase := rfl
@[simp] theorem hostRead_img : (hostRead n s).img = s.img := rfl
@[simp] theorem hostRead_fec : (hostRead n s).fec = s.fec := rfl
@[simp] theorem hostRead_ilv : (hostRead n s).ilv = s.ilv := rfl
@[simp] theorem hostRead_sym : (hostRead n s).sym = s.sym := rfl
@[simp] theorem hostRead_busLog : (hostRead n s).busLog = s.busLog := rfl
@[simp] theorem hostRead_inputs : (hostRead n s).inputs = s.inputs := rfl
@[simp] theorem hostRead_busReplies : (hostRead n s).busReplies = s.busReplies := rfl
@[simp] theorem hostRead_busCount : (hostRead n s).busCount = s.busCount := rfl
@[simp] theorem hostRead_readCount : (hostRead n s).readCount = s.readCount + 1 := rfl
@[simp] theorem hostRead_responses : (hostRead n s).responses = s.responses ++ [(n, hostReadValue n s)] := rfl

end

/-! ### `setInputs`: taking a pending action changes only the list of them -/

section
variable (rest : List Input) (s : State)

@[simp] theorem setInputs_cfg : (setInputs rest s).cfg = s.cfg := rfl
@[simp] theorem setInputs_err : (setInputs rest s).err = s.err := rfl
@[simp] theorem setInputs_busy : (setInputs rest s).busy = s.busy := rfl
@[simp] theorem setInputs_pwr : (setInputs rest s).pwr = s.pwr := rfl
@[simp] theorem setInputs_clen : (setInputs rest s).clen = s.clen := rfl
@[simp] theorem setInputs_brv : (setInputs rest s).brv = s.brv := rfl
@[simp] theorem setInputs_drvop : (setInputs rest s).drvop = s.drvop := rfl
@[simp] theorem setInputs_band : (setInputs rest s).band = s.band := rfl
@[simp] theorem setInputs_a : (setInputs rest s).a = s.a := rfl
@[simp] theorem setInputs_b : (setInputs rest s).b = s.b := rfl
@[simp] theorem setInputs_c : (setInputs rest s).c = s.c := rfl
@[simp] theorem setInputs_offs : (setInputs rest s).offs = s.offs := rfl
@[simp] theorem setInputs_corr : (setInputs rest s).corr = s.corr := rfl
@[simp] theorem setInputs_call : (setInputs rest s).call = s.call := rfl
@[simp] theorem setInputs_grid : (setInputs rest s).grid = s.grid := rfl
@[simp] theorem setInputs_csc : (setInputs rest s).csc = s.csc := rfl
@[simp] theorem setInputs_grd : (setInputs rest s).grd = s.grd := rfl
@[simp] theorem setInputs_lpc : (setInputs rest s).lpc = s.lpc := rfl
@[simp] theorem setInputs_msg : (setInputs rest s).msg = s.msg := rfl
@[simp] theorem setInputs_r0 : (setInputs rest s).r0 = s.r0 := rfl
@[simp] theorem setInputs_r1 : (setInputs rest s).r1 = s.r1 := rfl
@[simp] theorem setInputs_p1 : (setInputs rest s).p1 = s.p1 := rfl
@[simp] theorem setInputs_p2 : (setInputs rest s).p2 = s.p2 := rfl
@[simp] theorem setInputs_p3 : (setInputs rest s).p3 = s.p3 := rfl
@[simp] theorem setInputs_imgbase : (setInputs rest s).imgbase = s.imgbase := rfl
@[simp] theorem setInputs_img : (setInputs rest s).img = s.img := rfl
@[simp] theorem setInputs_fec : (setInputs rest s).fec = s.fec := rfl
@[simp] theorem setInputs_ilv : (setInputs rest s).ilv = s.ilv := rfl
@[simp] theorem setInputs_sym : (setInputs rest s).sym = s.sym := rfl
@[simp] theorem setInputs_busLog : (setInputs rest s).busLog = s.busLog := rfl
@[simp] theorem setInputs_inputs : (setInputs rest s).inputs = rest := rfl
@[simp] theorem setInputs_busReplies : (setInputs rest s).busReplies = s.busReplies := rfl
@[simp] theorem setInputs_busCount : (setInputs rest s).busCount = s.busCount := rfl
@[simp] theorem setInputs_readCount : (setInputs rest s).readCount = s.readCount := rfl
@[simp] theorem setInputs_responses : (setInputs rest s).responses = s.responses := rfl

end

/-! ### `setBusy`: beginning an operation raises `BUSY` and changes nothing else -/

section
variable (s : State)

@[simp] theorem setBusy_cfg : (setBusy s).cfg = s.cfg := rfl
@[simp] theorem setBusy_err : (setBusy s).err = s.err := rfl
@[simp] theorem setBusy_busy : (setBusy s).busy = true := rfl
@[simp] theorem setBusy_pwr : (setBusy s).pwr = s.pwr := rfl
@[simp] theorem setBusy_clen : (setBusy s).clen = s.clen := rfl
@[simp] theorem setBusy_brv : (setBusy s).brv = s.brv := rfl
@[simp] theorem setBusy_drvop : (setBusy s).drvop = s.drvop := rfl
@[simp] theorem setBusy_band : (setBusy s).band = s.band := rfl
@[simp] theorem setBusy_a : (setBusy s).a = s.a := rfl
@[simp] theorem setBusy_b : (setBusy s).b = s.b := rfl
@[simp] theorem setBusy_c : (setBusy s).c = s.c := rfl
@[simp] theorem setBusy_offs : (setBusy s).offs = s.offs := rfl
@[simp] theorem setBusy_corr : (setBusy s).corr = s.corr := rfl
@[simp] theorem setBusy_call : (setBusy s).call = s.call := rfl
@[simp] theorem setBusy_grid : (setBusy s).grid = s.grid := rfl
@[simp] theorem setBusy_csc : (setBusy s).csc = s.csc := rfl
@[simp] theorem setBusy_grd : (setBusy s).grd = s.grd := rfl
@[simp] theorem setBusy_lpc : (setBusy s).lpc = s.lpc := rfl
@[simp] theorem setBusy_msg : (setBusy s).msg = s.msg := rfl
@[simp] theorem setBusy_r0 : (setBusy s).r0 = s.r0 := rfl
@[simp] theorem setBusy_r1 : (setBusy s).r1 = s.r1 := rfl
@[simp] theorem setBusy_p1 : (setBusy s).p1 = s.p1 := rfl
@[simp] theorem setBusy_p2 : (setBusy s).p2 = s.p2 := rfl
@[simp] theorem setBusy_p3 : (setBusy s).p3 = s.p3 := rfl
@[simp] theorem setBusy_imgbase : (setBusy s).imgbase = s.imgbase := rfl
@[simp] theorem setBusy_img : (setBusy s).img = s.img := rfl
@[simp] theorem setBusy_fec : (setBusy s).fec = s.fec := rfl
@[simp] theorem setBusy_ilv : (setBusy s).ilv = s.ilv := rfl
@[simp] theorem setBusy_sym : (setBusy s).sym = s.sym := rfl
@[simp] theorem setBusy_busLog : (setBusy s).busLog = s.busLog := rfl
@[simp] theorem setBusy_inputs : (setBusy s).inputs = s.inputs := rfl
@[simp] theorem setBusy_busReplies : (setBusy s).busReplies = s.busReplies := rfl
@[simp] theorem setBusy_busCount : (setBusy s).busCount = s.busCount := rfl
@[simp] theorem setBusy_readCount : (setBusy s).readCount = s.readCount := rfl
@[simp] theorem setBusy_responses : (setBusy s).responses = s.responses := rfl

end

/-! ### Reset -/

/-- The reset state is the block's reset of itself: nothing but what reset leaves (10_state.md R35). -/
theorem reset_resetBlock : State.reset.resetBlock = State.reset := rfl

end Machine
end Sys2Proof
end

