-- ==== Sys2Proof/Laws/Ops.lean ====
section
/-! SUPPORT. What the shared operations do, said once: the end of an operation, the Register Bus, the written-bits. -/

namespace Sys2Proof
namespace Machine

/-! ### The end of an operation -/

/-- An operation that ends answers exactly one next state. -/
theorem endWith_eq_next (e : ErrCode) (s t : State) :
    endWith e s = .next t ↔ t = { s with err := e, busy := false } := by
  constructor
  · intro h; cases h; rfl
  · rintro rfl; rfl

theorem settle_error (s : State) (e : ErrCode) : settle s (.error e) = endWith e s := rfl

theorem settle_ok (s t : State) : settle s (.ok t) = endWith .ok t := rfl

/-- `settle` always ends the operation: with an error and the state before it, or with the result. -/
theorem settle_cases (s : State) (r : Except ErrCode State) :
    (∃ e, r = .error e ∧ settle s r = .next { s with err := e, busy := false }) ∨
    (∃ t, r = .ok t ∧ settle s r = .next { t with err := .ok, busy := false }) := by
  cases r with
  | error e => exact .inl ⟨e, rfl, rfl⟩
  | ok t => exact .inr ⟨t, rfl, rfl⟩

/-! ### The Register Bus -/

/-- The state after `n` bus accesses of which those completed left `events` in the history. -/
def busAdvance (events : List BusEvent) (n : Nat) (s : State) : State :=
  { s with
    busLog := s.busLog ++ events, busReplies := s.busReplies.drop n, busCount := s.busCount + n }

theorem busAdvance_zero (s : State) : busAdvance [] 0 s = s := by simp [busAdvance]

theorem busAdvance_busAdvance (e f : List BusEvent) (m n : Nat) (s : State) :
    busAdvance f n (busAdvance e m s) = busAdvance (e ++ f) (m + n) s := by
  simp [busAdvance, List.append_assoc, Nat.add_assoc]

theorem consumeReply_eq (s : State) : consumeReply s = busAdvance [] 1 s := by
  simp [consumeReply, busAdvance, List.drop_one]

theorem logEvent_consumeReply (e : BusEvent) (s : State) :
    logEvent e (consumeReply s) = busAdvance [e] 1 s := by
  simp [logEvent, consumeReply, busAdvance, List.drop_one]

/-- A bus write completes and is logged, or fails and is not. -/
theorem memWrite_cases (addr v : Byte) (s : State) :
    memWrite addr v s = (busAdvance [.write addr v] 1 s, true) ∨ memWrite addr v s = (busAdvance [] 1 s, false) := by
  unfold memWrite
  split
  · exact .inl (by rw [logEvent_consumeReply])
  · exact .inr (by rw [consumeReply_eq])

/-- A bus read completes with some byte and is logged, or fails and is not. -/
theorem memRead_cases (addr : Byte) (s : State) :
    (∃ v, memRead addr s = (busAdvance [.read addr v] 1 s, some v)) ∨
      memRead addr s = (busAdvance [] 1 s, none) := by
  unfold memRead
  split
  · exact .inl ⟨_, by rw [logEvent_consumeReply]⟩
  · exact .inr (by rw [consumeReply_eq])

theorem memWrite_done {s : State} {d : Byte} {rest : List BusReply} (addr v : Byte)
    (h : s.busReplies = .done d :: rest) : memWrite addr v s = (busAdvance [.write addr v] 1 s, true) := by
  simp [memWrite, nextReply, h, logEvent_consumeReply]

theorem memWrite_failed {s : State} {rest : List BusReply} (addr v : Byte)
    (h : s.busReplies = .failed :: rest) : memWrite addr v s = (busAdvance [] 1 s, false) := by
  simp [memWrite, nextReply, h, consumeReply_eq]

theorem memRead_done {s : State} {d : Byte} {rest : List BusReply} (addr : Byte)
    (h : s.busReplies = .done d :: rest) : memRead addr s = (busAdvance [.read addr d] 1 s, some d) := by
  simp [memRead, nextReply, h, logEvent_consumeReply]

theorem memRead_failed {s : State} {rest : List BusReply} (addr : Byte)
    (h : s.busReplies = .failed :: rest) : memRead addr s = (busAdvance [] 1 s, none) := by
  simp [memRead, nextReply, h, consumeReply_eq]

/-- The events of a list of completed bus writes. -/
def writeEvents (ws : List (Byte × Byte)) : List BusEvent := ws.map fun w => .write w.1 w.2

@[simp] theorem writeEvents_nil : writeEvents [] = [] := rfl

@[simp] theorem writeEvents_cons (w : Byte × Byte) (ws : List (Byte × Byte)) :
    writeEvents (w :: ws) = .write w.1 w.2 :: writeEvents ws := rfl

/-- Whatever the bus answers, a list of writes leaves a state in which only the bus has moved on: some leading part of
the list is in the history, and all of it if every write completed. -/
theorem busWrites_cases (ws : List (Byte × Byte)) (s : State) :
    ∃ k n, k ≤ ws.length ∧ (busWrites ws s).1 = busAdvance (writeEvents (ws.take k)) n s ∧
      ((busWrites ws s).2 = true → k = ws.length) := by
  induction ws generalizing s with
  | nil => exact ⟨0, 0, le_rfl, (busAdvance_zero s).symm, fun _ => rfl⟩
  | cons w ws ih =>
    rcases memWrite_cases w.1 w.2 s with h | h
    · obtain ⟨k, n, hk, h1, h2⟩ := ih (busAdvance [.write w.1 w.2] 1 s)
      refine ⟨k + 1, 1 + n, by simpa using hk, ?_, ?_⟩
      · simp only [busWrites, h, h1, busAdvance_busAdvance]; rfl
      · simp only [busWrites, h, List.length_cons, Nat.add_right_cancel_iff]; exact h2
    · exact ⟨0, 1, Nat.zero_le _, by simp [busWrites, h], by simp [busWrites, h]⟩

/-- If the bus completes every access, all writes are in the history, in order. -/
theorem busWrites_done (ws : List (Byte × Byte)) (s : State) (ds : List Byte) (rest : List BusReply)
    (hlen : ds.length = ws.length) (h : s.busReplies = ds.map .done ++ rest) :
    busWrites ws s = (busAdvance (writeEvents ws) ws.length s, true) := by
  induction ws generalizing s ds with
  | nil => simp [busWrites, busAdvance_zero]
  | cons w ws ih =>
    cases ds with
    | nil => simp at hlen
    | cons d ds =>
      have hw := memWrite_done w.1 w.2 (s := s) (rest := ds.map .done ++ rest) (by simpa using h)
      have := ih (busAdvance [.write w.1 w.2] 1 s) ds (by simpa using hlen) (by simp [busAdvance, h])
      simp only [busWrites, hw, this, busAdvance_busAdvance, List.length_cons, Nat.add_comm 1]
      rfl

/-- If the bus fails the write after `ws`, exactly `ws` is in the history and the rest is not attempted. -/
theorem busWrites_failed (ws : List (Byte × Byte)) (w : Byte × Byte) (post : List (Byte × Byte)) (s : State)
    (ds : List Byte) (rest : List BusReply) (hlen : ds.length = ws.length)
    (h : s.busReplies = ds.map .done ++ .failed :: rest) :
    busWrites (ws ++ w :: post) s = (busAdvance (writeEvents ws) (ws.length + 1) s, false) := by
  induction ws generalizing s ds with
  | nil =>
    obtain rfl : ds = [] := by simpa using hlen
    simp [busWrites, memWrite_failed w.1 w.2 (s := s) (rest := rest) (by simpa using h)]
  | cons x ws ih =>
    cases ds with
    | nil => simp at hlen
    | cons d ds =>
      have hw := memWrite_done x.1 x.2 (s := s) (rest := ds.map .done ++ .failed :: rest) (by simpa using h)
      have := ih (busAdvance [.write x.1 x.2] 1 s) ds (by simpa using hlen) (by simp [busAdvance, h])
      simp only [List.cons_append, busWrites, hw, this, busAdvance_busAdvance, List.length_cons]
      rw [Nat.add_comm 1]; rfl

/-! ### Written-bits -/

/-- A buffer has values exactly when every element holds one. -/
theorem written_eq_some {w n : Nat} (v : Vector (Reg w) n) (u : Vector (BitVec w) n) :
    written v = some u ↔ v = u.map some := by
  unfold written
  constructor
  · split
    · rename_i h
      rintro ⟨⟩
      ext i hi : 1
      have := (Vector.all_eq_true.mp h) i hi
      obtain ⟨x, hx⟩ := Option.isSome_iff_exists.mp this
      simp [hx]
    · simp
  · rintro rfl
    simp

/-- A buffer has no value exactly when some element holds none. -/
theorem written_eq_none {w n : Nat} (v : Vector (Reg w) n) :
    written v = none ↔ ∃ i, ∃ h : i < n, v[i] = none := by
  unfold written
  split
  · rename_i h
    simp only [reduceCtorEq, false_iff, not_exists]
    intro i hi h0
    have := (Vector.all_eq_true.mp h) i hi
    simp [h0] at this
  · rename_i h
    simp only [true_iff]
    by_contra hc
    apply h
    rw [Vector.all_eq_true]
    intro i hi
    have := fun h0 => hc ⟨i, hi, h0⟩
    exact Option.isSome_iff_ne_none.mpr this

@[simp] theorem written_map_some {w n : Nat} (u : Vector (BitVec w) n) : written (u.map some) = some u :=
  (written_eq_some _ _).mpr rfl

theorem allWritten_map_some {w n : Nat} (u : Vector (BitVec w) n) : allWritten (u.map some) = true := by
  simp [allWritten, Vector.all_eq_true]

/-- A list of elements has values exactly when every element holds one. -/
theorem readAll_eq_some {w : Nat} (l : List (Reg w)) (xs : List (BitVec w)) :
    readAll l = some xs ↔ l = xs.map some := by
  induction l generalizing xs with
  | nil => cases xs <;> simp [readAll]
  | cons r l ih =>
    cases r with
    | none => cases xs <;> simp [readAll]
    | some x =>
      cases xs with
      | nil => simp [readAll]
      | cons y ys => simp [readAll, ih, and_comm]

/-- A list of elements has no values exactly when some element holds none. -/
theorem readAll_eq_none {w : Nat} (l : List (Reg w)) : readAll l = none ↔ none ∈ l := by
  induction l with
  | nil => simp [readAll]
  | cons r l ih => cases r <;> simp [readAll, ih]

end Machine
end Sys2Proof
end

