-- ==== Sys2Proof/Laws/Dividers.lean ====
section
/-! SUPPORT. What the divider procedure, the driver procedure and the tone procedure can do, said once. -/

namespace Sys2Proof
namespace Machine

theorem imageWrites_length (base : Byte) (img : Vector Byte 8) : (imageWrites base img).length = 8 := by
  simp [imageWrites]

/-- The ratio test in words of its three parts (43_synth_dividers.md R141). -/
theorem ratioOk_iff (a : Nat) (b : Int) (c aMin aMax : Nat) :
    ratioOk a b c aMin aMax = true ↔
      (aMin ≤ a ∧ a ≤ aMax) ∧ (0 < c ∧ c ≤ Config.bcMax) ∧ 0 ≤ b ∧ b ≤ Config.bcMax := by
  simp [ratioOk, and_assoc]

/-- The numerator field of a ratio is the remainder, so it is below the denominator (R142, R143). -/
theorem pfields_p2_lt (a b : Nat) {c : Nat} (hc : 0 < c) : (pfields a b c).2.1 < c ∧ (pfields a b c).2.2 = c := by
  unfold pfields
  split
  · exact ⟨hc, rfl⟩
  · have hm := Nat.mod_lt (128 * b) hc
    have hd := Nat.div_add_mod (128 * b) c
    refine ⟨?_, rfl⟩
    simp only
    omega

/-- The state once an image was stored and some of its writes completed. -/
def imageWritten (base : Byte) (p1 : BitVec 18) (p2 p3 : BitVec 20) (k n : Nat) (s : State) : State :=
  busAdvance (writeEvents ((imageWrites base (imageBytes p1 p2 p3)).take k)) n (storeImage base p1 p2 p3 s)

/-- Everything the divider procedure can answer: the state as it was with a range or width error, or an image stored
with all its writes made, or with some of them and a bus failure. -/
theorem configureDivider_cases (base : Byte) (aMin aMax a : Nat) (b : Int) (c : Nat) (s : State) :
    configureDivider base aMin aMax a b c s = (s, .outOfRange) ∨
    configureDivider base aMin aMax a b c s = (s, .unrepresentable) ∨
    ∃ p1 p2 p3 k n e, p2.toNat < p3.toNat ∧ (e = .ok ∧ k = 8 ∨ e = .busFault ∧ k ≤ 8) ∧
      configureDivider base aMin aMax a b c s = (imageWritten base p1 p2 p3 k n s, e) := by
  unfold configureDivider
  cases hr : ratioOk a b c aMin aMax with
  | false => exact .inl rfl
  | true =>
    rw [ratioOk_iff] at hr
    obtain ⟨hlt, h3⟩ := pfields_p2_lt a b.toNat hr.2.1.1
    have hc : c ≤ 0xFFFFF := hr.2.1.2
    right
    rw [if_pos rfl]
    by_cases hp : (pfields a b.toNat c).1 < 2 ^ 18
    · right
      simp only [if_pos hp, writeImage]
      obtain ⟨k, n, hk, h1, h2⟩ := busWrites_cases
        (imageWrites base (imageBytes (BitVec.ofNat 18 (pfields a b.toNat c).1)
          (BitVec.ofNat 20 (pfields a b.toNat c).2.1) (BitVec.ofNat 20 (pfields a b.toNat c).2.2)))
        (storeImage base (BitVec.ofNat 18 (pfields a b.toNat c).1) (BitVec.ofNat 20 (pfields a b.toNat c).2.1)
          (BitVec.ofNat 20 (pfields a b.toNat c).2.2) s)
      rw [imageWrites_length] at hk h2
      refine ⟨_, _, _, k, n, _, ?_, ?_, Prod.ext h1 rfl⟩
      · rw [BitVec.toNat_ofNat, BitVec.toNat_ofNat, h3]
        omega
      · cases hf : (busWrites (imageWrites base (imageBytes (BitVec.ofNat 18 (pfields a b.toNat c).1)
            (BitVec.ofNat 20 (pfields a b.toNat c).2.1) (BitVec.ofNat 20 (pfields a b.toNat c).2.2)))
            (storeImage base (BitVec.ofNat 18 (pfields a b.toNat c).1) (BitVec.ofNat 20 (pfields a b.toNat c).2.1)
              (BitVec.ofNat 20 (pfields a b.toNat c).2.2) s)).2
        · exact .inr ⟨rfl, hk⟩
        · exact .inl ⟨rfl, h2 hf⟩
    · left
      simp only [if_neg hp]

/-- Everything the driver procedure can answer. -/
theorem configureDriver_cases (reg : Byte) (d : BitVec 7) (s : State) :
    configureDriver reg d s = (busAdvance [] 1 s, .busFault) ∨
    ∃ old, configureDriver reg d s = (busAdvance [.read reg old] 2 s, .busFault) ∨
      configureDriver reg d s = (busAdvance [.read reg old, .write reg (controlByte old d)] 2 s, .ok) := by
  unfold configureDriver
  rcases memRead_cases reg s with ⟨old, h⟩ | h
  · right
    refine ⟨old, ?_⟩
    rcases memWrite_cases reg (controlByte old d) (busAdvance [.read reg old] 1 s) with hw | hw
    · right; simp only [h, hw, busAdvance_busAdvance]; rfl
    · left; simp only [h, hw, busAdvance_busAdvance]; rfl
  · left; simp only [h]

/-- Everything the tone procedure can answer: an answer of its first half that is no success, or, after a whole
multisynth image, an answer of its second half. -/
theorem configureTone_cases (msBase pllBase : Byte) (e : BandEntry) (offs corr : Nat) (s : State) :
    (configureTone msBase pllBase e offs corr s =
        configureDivider msBase Config.msAMin Config.msAMax e.msDiv 0 1 s ∧
      (configureDivider msBase Config.msAMin Config.msAMax e.msDiv 0 1 s).2 ≠ .ok) ∨
    ∃ t, configureDivider msBase Config.msAMin Config.msAMax e.msDiv 0 1 s = (t, .ok) ∧
      configureTone msBase pllBase e offs corr s = configureDivider pllBase Config.pllAMin Config.pllAMax e.pllA
        (toneNumerator s.cfg e offs corr) e.pllC t := by
  unfold configureTone
  cases h : configureDivider msBase Config.msAMin Config.msAMax e.msDiv 0 1 s with
  | mk t code =>
    cases code <;> first | exact .inr ⟨t, rfl, rfl⟩ | exact .inl ⟨rfl, by simp⟩

/-- Every legal channel has a multisynth base among the configured ones. -/
theorem msBaseOf_eq_some {cfg : Config} {ch : BitVec 2} {base : Byte} (h : msBaseOf cfg ch = some base) :
    base.toNat ∈ cfg.par.raw.imageBases := by
  obtain ⟨hi, rfl⟩ := Vector.getElem?_eq_some_iff.mp h
  exact List.mem_map_of_mem (List.mem_append_right _ (Vector.mem_toList_iff.mpr (Vector.getElem_mem hi)))

/-- The base of a PLL is among the configured ones. -/
theorem pllBaseOf_mem (cfg : Config) (pll : Bit) : (pllBaseOf cfg pll).toNat ∈ cfg.par.raw.imageBases :=
  List.mem_map_of_mem (List.mem_append_left _ (Vector.mem_toList_iff.mpr (Vector.getElem_mem _)))

/-- Every legal channel has a control register among the configured ones. -/
theorem clkCtrlOf_eq_some {cfg : Config} {ch : BitVec 2} {reg : Byte} (h : clkCtrlOf cfg ch = some reg) :
    reg.toNat ∈ cfg.par.raw.ctrlRegs := by
  obtain ⟨hi, rfl⟩ := Vector.getElem?_eq_some_iff.mp h
  exact List.mem_map_of_mem (Vector.mem_toList_iff.mpr (Vector.getElem_mem hi))

theorem msBaseOf_isSome {cfg : Config} {ch : BitVec 2} (h : ch ≠ 3) : ∃ base, msBaseOf cfg ch = some base := by
  have : ch.toNat < 3 := by revert h; revert ch; decide
  exact ⟨_, Vector.getElem?_eq_getElem this⟩

theorem clkCtrlOf_isSome {cfg : Config} {ch : BitVec 2} (h : ch ≠ 3) : ∃ reg, clkCtrlOf cfg ch = some reg := by
  have : ch.toNat < 3 := by revert h; revert ch; decide
  exact ⟨_, Vector.getElem?_eq_getElem this⟩

/-- A band key is looked up through its record in the table. -/
theorem bandLookup_mem {cfg : Config} {key : Byte} {e : BandEntry} (h : bandLookup cfg key = some e) :
    (key, e) ∈ cfg.par.raw.bandTab := by
  unfold bandLookup at h
  generalize cfg.par.raw.bandTab = l at h ⊢
  induction l with
  | nil => simp at h
  | cons x l ih =>
    rw [List.lookup_cons] at h
    split at h
    · rename_i hk
      have : key = x.1 := by simpa using hk
      cases h
      exact this ▸ List.mem_cons_self
    · exact List.mem_cons_of_mem _ (ih h)

end Machine
end Sys2Proof
end

