-- ==== Sys2Proof/Laws/Encoder.lean ====
section
/-! SUPPORT. What the encoder's operations compute, said once: the bodies of `PACK`, `CONV`, `ILV`, `MERGE` and
`ENCODE`, the loop of the convolutional encoder, the scan of the interleaver. -/

namespace Sys2Proof
namespace Machine

/-! ### `PACK` -/

/-- `charValues` gives the value of each character, in order, exactly when every character has one. -/
theorem charValues_eq_some {t : List Byte} {v : List Nat} : charValues t = some v ↔ t.map cval = v.map some := by
  induction t generalizing v with
  | nil => cases v <;> simp [charValues]
  | cons b t ih =>
    cases v <;> cases h : cval b <;> simp [charValues, h, ih, and_comm]

/-- The operands of `PACK` are there exactly when every element it reads holds its value. -/
theorem packOperands_eq_some (s : State) (o : PackOperands) :
    packOperands s = some o ↔ s.pwr = some o.pwr ∧ s.clen = some o.clen ∧
      s.call.toList.take o.clen.toNat = o.call.map some ∧ s.grid = o.grid.map some := by
  obtain ⟨pwr, clen, call, grid⟩ := o
  unfold packOperands
  cases hc : s.clen with
  | none => simp
  | some c =>
    cases hp : s.pwr with
    | none => simp
    | some p =>
      cases hg : written s.grid with
      | none =>
        simp only [reduceCtorEq, false_iff]
        rintro ⟨-, -, -, h⟩
        rw [h, written_map_some] at hg
        simp at hg
      | some g =>
        rw [written_eq_some] at hg
        simp only [Option.map_eq_some_iff, readAll_eq_some, PackOperands.mk.injEq, Option.some.injEq]
        constructor
        · rintro ⟨x, hx, rfl, rfl, rfl, rfl⟩
          exact ⟨rfl, rfl, hx, hg⟩
        · rintro ⟨rfl, rfl, hx, hg'⟩
          refine ⟨call, hx, rfl, rfl, rfl, ?_⟩
          rw [hg'] at hg
          exact (Vector.map_inj_right fun _ _ => Option.some.inj).mp hg.symm

/-- `PACK` fails with `NotReady` or with the failing test of its pseudocode, or stores what it packed. -/
theorem packBody_cases (s : State) :
    packBody s = .error .notReady ∨
    ∃ o, packOperands s = some o ∧
      ((∃ e, packResult o = .error e ∧ packBody s = .error e) ∨
       ∃ r, packResult o = .ok r ∧ packBody s = .ok (storePacked r s)) := by
  unfold packBody
  cases packOperands s with
  | none => exact .inl rfl
  | some o =>
    refine .inr ⟨o, rfl, ?_⟩
    cases hr : packResult o with
    | error e => exact .inl ⟨e, rfl, by simp only [hr]; rfl⟩
    | ok r => exact .inr ⟨r, rfl, by simp only [hr]; rfl⟩

/-- The errors of the callsign part (40_source_coding.md R99). -/
theorem callsignValues_error {n : Nat} {call : List Byte} {e : ErrCode} (h : callsignValues n call = .error e) :
    e = .invalidCallsign ∨ e = .invalidCharacter := by
  unfold callsignValues at h
  split at h
  · cases h; exact .inl rfl
  · split at h
    · cases h; exact .inr rfl
    · split at h
      · cases h
      · cases h; exact .inl rfl

/-- The errors of the pseudocode of `PACK` (R99). -/
theorem packResult_error {o : PackOperands} {e : ErrCode} (h : packResult o = .error e) :
    e = .invalidPower ∨ e = .invalidCallsign ∨ e = .invalidCharacter ∨ e = .invalidLocator := by
  unfold packResult at h
  split at h
  · split at h
    · rename_i hc
      cases h
      rcases callsignValues_error hc with rfl | rfl <;> simp
    · split at h
      · cases h
      · cases h; simp
  · cases h; simp

/-- What the pseudocode of `PACK` packs, and the tests it passed (R99). -/
theorem packResult_ok {o : PackOperands} {r : Packed} (h : packResult o = .ok r) :
    powerOk o.pwr.toNat ∧ locatorOk o.grid = true ∧
      ∃ v, callsignValues o.clen.toNat o.call = .ok v ∧ r = assemble v o.grid o.pwr.toNat := by
  unfold packResult at h
  split at h
  · rename_i hp
    split at h
    · cases h
    · rename_i v hv
      split at h
      · rename_i hl
        cases h
        exact ⟨hp, hl, v, hv, rfl⟩
      · cases h
  · cases h

/-! ### `CONV` -/

theorem convBody_none {s : State} (h : written s.msg = none) : convBody s = .error .notReady := by
  simp only [convBody, h]

theorem convBody_some {s : State} {m : Vector Byte 7} (h : s.msg = m.map some) :
    convBody s = .ok (storeConv (convolve m) s) := by
  simp only [convBody, h, written_map_some]

/-- The two registers of the encoder see the same bits, so they stay equal (41_convolutional_encoder.md R111), and the
output bits are the parities of the masked register after each bit. -/
theorem convLoop_spec (ds : List Bit) (r : BitVec 32) :
    (convLoop ds r r).1 = ds.foldl shiftIn r ∧ (convLoop ds r r).2.1 = ds.foldl shiftIn r ∧
    ∀ i, i < ds.length →
      (convLoop ds r r).2.2[2 * i]? = some (parity ((ds.take (i + 1)).foldl shiftIn r &&& Config.poly0)) ∧
      (convLoop ds r r).2.2[2 * i + 1]? = some (parity ((ds.take (i + 1)).foldl shiftIn r &&& Config.poly1)) := by
  induction ds generalizing r with
  | nil => exact ⟨rfl, rfl, fun i h => by simp at h⟩
  | cons d ds ih =>
    obtain ⟨h1, h2, h3⟩ := ih (shiftIn r d)
    refine ⟨h1, h2, fun i hi => ?_⟩
    have e : (convLoop (d :: ds) r r).2.2 = parity (shiftIn r d &&& Config.poly0) ::
        parity (shiftIn r d &&& Config.poly1) :: (convLoop ds (shiftIn r d) (shiftIn r d)).2.2 := rfl
    rw [e]
    cases i with
    | zero => exact ⟨rfl, rfl⟩
    | succ i =>
      have := h3 i (by simpa using hi)
      rw [show 2 * (i + 1) = 2 * i + 1 + 1 by omega]
      simp only [List.getElem?_cons_succ, List.take_succ_cons, List.foldl_cons]
      exact this

theorem convolve_eq (m : Vector Byte 7) :
    convolve m = ((convLoop (messageWindow m) 0 0).1, (convLoop (messageWindow m) 0 0).2.1,
      Vector.ofFn fun k => (convLoop (messageWindow m) 0 0).2.2.getD k 0) := by
  unfold convolve
  generalize convLoop (messageWindow m) 0 0 = x
  rfl

theorem convolve_registers (m : Vector Byte 7) : (convolve m).1 = (convolve m).2.1 := by
  rw [convolve_eq]
  exact (convLoop_spec _ _).1.trans (convLoop_spec _ _).2.1.symm

/-! ### `ILV` -/

theorem ilvBody_none {s : State} (h : written s.fec = none) : ilvBody s = .error .notReady := by
  simp only [ilvBody, h]

theorem ilvBody_some {s : State} {fec : Vector Bit 162} (h : s.fec = fec.map some) :
    ilvBody s = .ok { s with ilv := interleave fec s.ilv } := by
  simp only [ilvBody, h, written_map_some]

/-- The position a scan index sends its bit to, if below 162. -/
def scanTarget (j : Nat) : Nat := (brev8 (BitVec.ofNat 8 j)).toNat

/-- The interleaver's scan with its targets given by any function. -/
def scanWith (target : Nat → Nat) (fec : Vector Bit 162) : List Nat → Nat → Vector (Reg 1) 162 → Vector (Reg 1) 162
  | [], _, out => out
  | j :: rest, p, out =>
    if p = 162 then out
    else if target j < 162 then
      scanWith target fec rest (p + 1) (out.setIfInBounds (target j) (some (fec[p]?.getD 0)))
    else scanWith target fec rest p out

theorem scanWith_cons (target : Nat → Nat) (fec : Vector Bit 162) (j : Nat) (rest : List Nat) (p : Nat)
    (out : Vector (Reg 1) 162) :
    scanWith target fec (j :: rest) p out =
      if p = 162 then out
      else if target j < 162 then
        scanWith target fec rest (p + 1) (out.setIfInBounds (target j) (some (fec[p]?.getD 0)))
      else scanWith target fec rest p out := rfl

theorem ilvLoop_eq_scanWith (fec : Vector Bit 162) (js : List Nat) (p : Nat) (out : Vector (Reg 1) 162) :
    ilvLoop fec js p out = scanWith scanTarget fec js p out := by
  induction js generalizing p out with
  | nil => rfl
  | cons j js ih =>
    rw [scanWith_cons]
    unfold ilvLoop
    by_cases hp : p = 162
    · rw [if_pos hp, if_pos hp]
    · rw [if_neg hp, if_neg hp]
      by_cases hj : scanTarget j < 162
      · rw [if_pos hj, ← ih, show ilvStep fec j p out = (p + 1, out.setIfInBounds (scanTarget j)
          (some (fec[p]?.getD 0))) from if_pos hj]
      · rw [if_neg hj, ← ih, show ilvStep fec j p out = (p, out) from if_neg hj]

/-- A scan that accepts its indices without repeating a target, and just enough of them, places the `k`-th remaining
bit at the target of the `k`-th accepted index, and leaves other elements alone. -/
theorem scanWith_spec (target : Nat → Nat) (fec : Vector Bit 162) (js : List Nat) (p : Nat) (out : Vector (Reg 1) 162)
    (hdistinct : js.Pairwise fun i j => target i ≠ target j)
    (hcount : p + (js.filter fun j => target j < 162).length = 162) (r : Nat) (hr : r < 162) :
    (scanWith target fec js p out)[r] =
      match (js.filter fun j => target j < 162).findIdx? (fun j => target j = r) with
      | some k => some (fec[p + k]?.getD 0)
      | none => out[r] := by
  induction js generalizing p out with
  | nil => rw [List.filter_nil, List.findIdx?_nil]; unfold scanWith; rfl
  | cons j js ih =>
    rw [List.pairwise_cons] at hdistinct
    rw [scanWith_cons]
    by_cases hp : p = 162
    · have : ((j :: js).filter fun j => target j < 162) = [] := by
        apply List.eq_nil_of_length_eq_zero; omega
      rw [this, List.findIdx?_nil, if_pos hp]
    · rw [if_neg hp]
      by_cases hj : target j < 162
      · rw [if_pos hj]
        rw [List.filter_cons_of_pos (by simpa using hj)] at hcount ⊢
        rw [ih (p + 1) _ hdistinct.2 (by rw [List.length_cons] at hcount; omega), List.findIdx?_cons]
        by_cases hjr : target j = r
        · have : (js.filter fun j => target j < 162).findIdx? (fun j => target j = r) = none := by
            rw [List.findIdx?_eq_none_iff]
            intro x hx
            have := hdistinct.1 x (List.mem_of_mem_filter hx)
            simp only [decide_eq_false_iff_not]
            exact fun hh => this (hjr.trans hh.symm)
          rw [this, if_pos (by simpa using hjr)]
          simp [hjr]
        · rw [if_neg (by simpa using hjr)]
          cases (js.filter fun j => target j < 162).findIdx? (fun j => target j = r) with
          | none => simp [hjr]
          | some k => simp [Nat.add_assoc, Nat.add_comm 1]
      · rw [if_neg hj]
        rw [List.filter_cons_of_neg (by simpa using hj)] at hcount ⊢
        exact ih p out hdistinct.2 hcount

/-- The element of an interleaved array: the bit whose accepted index has it as its target
(42_interleaver_sync_merge.md R124). -/
theorem interleave_getElem (fec : Vector Bit 162) (old : Vector (Reg 1) 162) (r : Nat) (hr : r < 162) :
    (interleave fec old)[r] =
      match ((List.range 256).filter fun j => scanTarget j < 162).findIdx? (fun j => scanTarget j = r) with
      | some k => some (fec[k]?.getD 0)
      | none => old[r] := by
  have h := scanWith_spec scanTarget fec (List.range 256) 0 old (by decide +kernel) (by decide +kernel) r hr
  simp only [Nat.zero_add] at h
  unfold interleave
  rw [ilvLoop_eq_scanWith]
  exact h

/-- Every element of an interleaved array is written (R124). -/
theorem interleave_written (fec : Vector Bit 162) (old : Vector (Reg 1) 162) :
    ∃ out : Vector Bit 162, interleave fec old = out.map some := by
  have hall : ∀ r : Fin 162,
      ((List.range 256).filter fun j => scanTarget j < 162).findIdx? (fun j => scanTarget j = r.val) ≠ none := by
    decide +kernel
  have hw : written (interleave fec old) ≠ none := by
    rw [Ne, written_eq_none]
    rintro ⟨r, hr, h⟩
    obtain ⟨k, hk⟩ := Option.ne_none_iff_exists'.mp (hall ⟨r, hr⟩)
    rw [interleave_getElem fec old r hr, hk] at h
    simp at h
  obtain ⟨out, ho⟩ := Option.ne_none_iff_exists'.mp hw
  exact ⟨out, (written_eq_some _ _).mp ho⟩

/-! ### `MERGE` and `ENCODE` -/

theorem mergeBody_none {s : State} (h : written s.ilv = none) : mergeBody s = .error .notReady := by
  simp only [mergeBody, h]

theorem mergeBody_some {s : State} {ilv : Vector Bit 162} (h : s.ilv = ilv.map some) :
    mergeBody s = .ok { s with sym := (merge s.cfg.sync ilv).map some } := by
  simp only [mergeBody, h, written_map_some]

/-- Bit 0 of a symbol is the sync bit, bit 1 the data bit (30_encoding.md R73). -/
theorem symbolOf_bits (sync data : Bit) :
    (symbolOf sync data).extractLsb' 0 1 = sync ∧ (symbolOf sync data).extractLsb' 1 1 = data := by
  revert sync data; decide

theorem encodeBody_error {s : State} {e : ErrCode} (h : packBody s = .error e) : encodeBody s = .error e := by
  simp only [encodeBody, h, Except.bind]

/-- The state a successful `ENCODE` has computed: the results of `PACK`, of `CONV` on its message, `ilv` as the
interleaved stream, and the symbols. -/
def storeEncoded (r : Packed) (ilv : Vector Bit 162) (s : State) : State :=
  { s with
    csc := some r.csc, grd := some r.grd, lpc := some r.lpc, msg := r.msg.map some,
    r0 := some (convolve r.msg).1, r1 := some (convolve r.msg).2.1, fec := (convolve r.msg).2.2.map some,
    ilv := ilv.map some, sym := (merge s.cfg.sync ilv).map some }

/-- Once `PACK` has stored its message, the rest of `ENCODE` never fails (42_interleaver_sync_merge.md R130). -/
theorem encodeBody_ok {s : State} {r : Packed} (h : packBody s = .ok (storePacked r s)) :
    ∃ ilv : Vector Bit 162, interleave (convolve r.msg).2.2 s.ilv = ilv.map some ∧
      encodeBody s = .ok (storeEncoded r ilv s) := by
  obtain ⟨ilv, hilv⟩ := interleave_written (convolve r.msg).2.2 s.ilv
  refine ⟨ilv, hilv, ?_⟩
  have h1 : convBody (storePacked r s) = .ok (storeConv (convolve r.msg) (storePacked r s)) := convBody_some rfl
  have h2 : ilvBody (storeConv (convolve r.msg) (storePacked r s)) =
      .ok { storeConv (convolve r.msg) (storePacked r s) with ilv := ilv.map some } := by
    rw [ilvBody_some (fec := (convolve r.msg).2.2) rfl]
    rw [← hilv]
    rfl
  have h3 : mergeBody { storeConv (convolve r.msg) (storePacked r s) with ilv := ilv.map some } = _ :=
    mergeBody_some (ilv := ilv) rfl
  unfold encodeBody
  rw [h]
  unfold Except.bind
  simp only
  rw [h1]
  simp only
  rw [h2]
  simp only
  rw [h3]
  rfl

end Machine
end Sys2Proof
end

