-- ==== Sys2Proof/Laws/Exec.lean ====
section
/-! SUPPORT. Everything an operation can do, said once: `exec` always answers a next state, and that state is one of
the cases of `Effect`. Whole-machine statements go through these cases and not through the meanings. -/

namespace Sys2Proof
namespace Machine

/-- The state an operation ends in. -/
def endState (e : ErrCode) (s : State) : State := { s with err := e, busy := false }

theorem endWith_eq (e : ErrCode) (s : State) : endWith e s = .next (endState e s) := rfl

/-- The operations that write a divider image. -/
def writesImage (i : Instr) : Prop := (∃ p, i = .pllcfg p) ∨ (∃ n, i = .mscfg n) ∨ ∃ n p, i = .tone n p

/-- The errors an operation can end with before it has changed anything (60_exceptions.md R180). -/
def failsWith (i : Instr) (e : ErrCode) : Prop :=
  e = .notReady ∨ (e = .illegalCommand ∧ i.wf = false) ∨
  ((i = .pack ∨ i = .encode) ∧
    (e = .invalidPower ∨ e = .invalidCallsign ∨ e = .invalidCharacter ∨ e = .invalidLocator)) ∨
  (writesImage i ∧ (e = .outOfRange ∨ e = .unrepresentable)) ∨
  ((∃ n p, i = .tone n p) ∧ e = .unsupportedBand)

/-- How an image write ends: all eight bus writes made, or some of them and a bus failure. -/
def imageEnds (e : ErrCode) (k : Nat) : Prop := e = .ok ∧ k = 8 ∨ e = .busFault ∧ k ≤ 8

/-- The next states of an operation `i` at a state `s`. -/
inductive Effect (i : Instr) (s : State) : State → Prop
  /-- An error that changes nothing else. -/
  | failed (e : ErrCode) (hok : e ≠ .ok) (hbus : e ≠ .busFault) (hraise : failsWith i e) : Effect i s (endState e s)
  | packed (o : PackOperands) (r : Packed) (hi : i = .pack) (hr : packResult o = .ok r) :
      Effect i s (endState .ok (storePacked r s))
  | coded (m : Vector Byte 7) (hi : i = .conv) (hm : s.msg = m.map some) :
      Effect i s (endState .ok (storeConv (convolve m) s))
  | interleaved (fec out : Vector Bit 162) (hi : i = .ilv) (hf : s.fec = fec.map some) :
      Effect i s (endState .ok { s with ilv := out.map some })
  | merged (ilv : Vector Bit 162) (hi : i = .merge) (hv : s.ilv = ilv.map some) :
      Effect i s (endState .ok { s with sym := (merge s.cfg.sync ilv).map some })
  | encoded (o : PackOperands) (r : Packed) (ilv : Vector Bit 162) (hi : i = .encode) (hr : packResult o = .ok r) :
      Effect i s (endState .ok (storeEncoded r ilv s))
  | reversed (x : Byte) (hi : i = .brev) : Effect i s (endState .ok { s with brv := some x })
  /-- One image: `PLLCFG`, `MSCFG`, or `TONE` failing on the bus inside its first image. -/
  | image (base : Byte) (p1 : BitVec 18) (p2 p3 : BitVec 20) (k n : Nat) (e : ErrCode) (hi : writesImage i)
      (hbase : base.toNat ∈ s.cfg.par.raw.imageBases) (hp : p2.toNat < p3.toNat) (he : imageEnds e k) :
      Effect i s (endState e (imageWritten base p1 p2 p3 k n s))
  | driver (reg : Byte) (d : BitVec 7) (events : List BusEvent) (n : Nat) (e : ErrCode) (old : Byte)
      (hi : ∃ n, i = .drvcfg n) (hreg : reg.toNat ∈ s.cfg.par.raw.ctrlRegs) (he : e = .ok ∨ e = .busFault)
      (hev : events = [] ∨ events = [.read reg old] ∨ events = [.read reg old, .write reg (controlByte old d)]) :
      Effect i s (endState e (busAdvance events n s))
  /-- `TONE` failing after its first image (44_synth_driver_tone.md R167). -/
  | toneHalf (base : Byte) (p1 : BitVec 18) (p2 p3 : BitVec 20) (n : Nat) (e : ErrCode) (hi : ∃ n p, i = .tone n p)
      (hbase : base.toNat ∈ s.cfg.par.raw.imageBases) (hp : p2.toNat < p3.toNat)
      (he : e = .outOfRange ∨ e = .unrepresentable) : Effect i s (endState e (imageWritten base p1 p2 p3 8 n s))
  /-- `TONE` ending in its second image. -/
  | tone (base : Byte) (p1 : BitVec 18) (p2 p3 : BitVec 20) (n : Nat) (base' : Byte) (p1' : BitVec 18)
      (p2' p3' : BitVec 20) (k' n' : Nat) (e : ErrCode) (hi : ∃ n p, i = .tone n p)
      (hbase : base.toNat ∈ s.cfg.par.raw.imageBases) (hp : p2.toNat < p3.toNat)
      (hbase' : base'.toNat ∈ s.cfg.par.raw.imageBases) (hp' : p2'.toNat < p3'.toNat) (he : imageEnds e k') :
      Effect i s (endState e (imageWritten base' p1' p2' p3' k' n' (imageWritten base p1 p2 p3 8 n s)))

theorem exec_effect (i : Instr) (s : State) : ∃ t, exec i s = .next t ∧ Effect i s t := by
  have div : ∀ (base m n a b c), base.toNat ∈ s.cfg.par.raw.imageBases → writesImage i →
     Effect i s (endState (configureDivider base m n a b c s).2 (configureDivider base m n a b c s).1) := by
    intro base m n a b c hm hi
    rcases configureDivider_cases base m n a b c s with h | h | ⟨p1, p2, p3, k, nn, e, hp, he, h⟩
    · rw [h]; exact .failed _ (by simp) (by simp) (by simp [failsWith, hi])
    · rw [h]; exact .failed _ (by simp) (by simp) (by simp [failsWith, hi])
    · rw [h]; exact .image _ _ _ _ _ _ _ hi hm hp he
  cases i with
  | pack =>
    show ∃ t, execPack s = _ ∧ _
    unfold execPack
    rcases packBody_cases s with h | ⟨o, ho, ⟨e, he, h⟩ | ⟨r, hr, h⟩⟩
    · rw [h]; exact ⟨_, rfl, .failed _ (by simp) (by simp) (by simp [failsWith])⟩
    · rw [h]; have := packResult_error he; refine ⟨_, rfl, .failed e ?_ ?_ ?_⟩
      · rcases this with rfl | rfl | rfl | rfl <;> simp
      · rcases this with rfl | rfl | rfl | rfl <;> simp
      · simp [failsWith, this]
    · rw [h]; exact ⟨_, rfl, .packed o r rfl hr⟩
  | conv =>
    show ∃ t, execConv s = _ ∧ _
    unfold execConv
    cases h : written s.msg with
    | none => rw [convBody_none h]; exact ⟨_, rfl, .failed _ (by simp) (by simp) (by simp [failsWith])⟩
    | some m => rw [written_eq_some] at h; rw [convBody_some h]; exact ⟨_, rfl, .coded m rfl h⟩
  | ilv =>
    show ∃ t, execIlv s = _ ∧ _
    unfold execIlv
    cases h : written s.fec with
    | none => rw [ilvBody_none h]; exact ⟨_, rfl, .failed _ (by simp) (by simp) (by simp [failsWith])⟩
    | some m => rw [written_eq_some] at h; rw [ilvBody_some h]; obtain ⟨out, ho⟩ := interleave_written m s.ilv; rw [ho]; exact ⟨_, rfl, .interleaved m out rfl h⟩
  | merge =>
    show ∃ t, execMerge s = _ ∧ _
    unfold execMerge
    cases h : written s.ilv with
    | none => rw [mergeBody_none h]; exact ⟨_, rfl, .failed _ (by simp) (by simp) (by simp [failsWith])⟩
    | some m => rw [written_eq_some] at h; rw [mergeBody_some h]; exact ⟨_, rfl, .merged m rfl h⟩
  | encode =>
    show ∃ t, execEncode s = _ ∧ _
    unfold execEncode
    rcases packBody_cases s with h | ⟨o, ho, ⟨e, he, h⟩ | ⟨r, hr, h⟩⟩
    · rw [encodeBody_error h]; exact ⟨_, rfl, .failed _ (by simp) (by simp) (by simp [failsWith])⟩
    · rw [encodeBody_error h]; have := packResult_error he; refine ⟨_, rfl, .failed e ?_ ?_ ?_⟩
      · rcases this with rfl | rfl | rfl | rfl <;> simp
      · rcases this with rfl | rfl | rfl | rfl <;> simp
      · simp [failsWith, this]
    · obtain ⟨ilv, _, h2⟩ := encodeBody_ok h
      rw [h2]; exact ⟨_, rfl, .encoded o r ilv rfl hr⟩
  | brev =>
    show ∃ t, execBrev s = _ ∧ _
    unfold execBrev brevBody
    cases h : s.brv with
    | none => exact ⟨_, rfl, .failed _ (by simp) (by simp) (by simp [failsWith])⟩
    | some x => exact ⟨_, rfl, .reversed _ rfl⟩
  | pllcfg p =>
    show ∃ t, execPllcfg p s = _ ∧ _
    unfold execPllcfg
    cases h : ratioOperands s with
    | none => exact ⟨_, rfl, .failed _ (by simp) (by simp) (by simp [failsWith])⟩
    | some x => exact ⟨_, rfl, div _ _ _ _ _ _ (pllBaseOf_mem _ _) (.inl ⟨p, rfl⟩)⟩
  | mscfg ch =>
    show ∃ t, execMscfg ch s = _ ∧ _
    unfold execMscfg
    cases hb : msBaseOf s.cfg ch with
    | none => exact ⟨_, rfl, .failed _ (by simp) (by simp) (by
        have : (Instr.mscfg ch).wf = false := by
          simp only [Instr.wf, decide_eq_false_iff_not, not_not]
          by_contra hc
          obtain ⟨b, h⟩ := msBaseOf_isSome (cfg := s.cfg) hc
          rw [hb] at h; simp at h
        simp [failsWith, this])⟩
    | some base =>
      cases h : ratioOperands s with
      | none => exact ⟨_, rfl, .failed _ (by simp) (by simp) (by simp [failsWith])⟩
      | some x => exact ⟨_, rfl, div _ _ _ _ _ _ (msBaseOf_eq_some hb) (.inr (.inl ⟨ch, rfl⟩))⟩
  | drvcfg ch =>
    show ∃ t, execDrvcfg ch s = _ ∧ _
    unfold execDrvcfg
    cases hb : clkCtrlOf s.cfg ch with
    | none => exact ⟨_, rfl, .failed _ (by simp) (by simp) (by
        have : (Instr.drvcfg ch).wf = false := by
          simp only [Instr.wf, decide_eq_false_iff_not, not_not]
          by_contra hc
          obtain ⟨b, h⟩ := clkCtrlOf_isSome (cfg := s.cfg) hc
          rw [hb] at h; simp at h
        simp [failsWith, this])⟩
    | some reg =>
      cases h : s.drvop with
      | none => exact ⟨_, rfl, .failed _ (by simp) (by simp) (by simp [failsWith])⟩
      | some d =>
        refine ⟨endState (configureDriver reg d s).2 (configureDriver reg d s).1, rfl, ?_⟩
        rcases configureDriver_cases reg d s with h | ⟨old, h | h⟩
        · rw [h]; exact .driver reg d _ _ _ 0 ⟨_, rfl⟩ (clkCtrlOf_eq_some hb) (by simp) (by simp)
        · rw [h]; exact .driver reg d _ _ _ old ⟨_, rfl⟩ (clkCtrlOf_eq_some hb) (by simp) (by simp)
        · rw [h]; exact .driver reg d _ _ _ old ⟨_, rfl⟩ (clkCtrlOf_eq_some hb) (by simp) (by simp)
  | tone ch p =>
    show ∃ t, execTone ch p s = _ ∧ _
    unfold execTone
    cases hb : msBaseOf s.cfg ch with
    | none => exact ⟨_, rfl, .failed _ (by simp) (by simp) (by
        have : (Instr.tone ch p).wf = false := by
          simp only [Instr.wf, decide_eq_false_iff_not, not_not]
          by_contra hc
          obtain ⟨b, h⟩ := msBaseOf_isSome (cfg := s.cfg) hc
          rw [hb] at h; simp at h
        simp [failsWith, this])⟩
    | some base =>
      cases h : toneOperands s with
      | none => exact ⟨_, rfl, .failed _ (by simp) (by simp) (by simp [failsWith])⟩
      | some x =>
        obtain ⟨band, offs, corr⟩ := x
        simp only
        cases hl : bandLookup s.cfg band with
        | none => exact ⟨_, rfl, .failed _ (by simp) (by simp) (by simp [failsWith])⟩
        | some e =>
          refine ⟨endState (configureTone base (pllBaseOf s.cfg p) e offs corr s).2 (configureTone base (pllBaseOf s.cfg p) e offs corr s).1, rfl, ?_⟩
          have hm := msBaseOf_eq_some hb
          have hpm := pllBaseOf_mem s.cfg p
          rcases configureTone_cases base (pllBaseOf s.cfg p) e offs corr s with ⟨h1, h2⟩ | ⟨t, h1, h2⟩
          · rw [h1]; exact div _ _ _ _ _ _ hm (.inr (.inr ⟨_, _, rfl⟩))
          · rw [h2]
            rcases configureDivider_cases base Config.msAMin Config.msAMax e.msDiv 0 1 s with h | h | ⟨p1, p2, p3, k, nn, e', hp, he, h⟩
            · rw [h] at h1; simp at h1
            · rw [h] at h1; simp at h1
            · rw [h] at h1; simp at h1; obtain ⟨rfl, rfl⟩ := h1
              simp only [true_and, reduceCtorEq, false_and, or_false] at he; subst he
              rcases configureDivider_cases (pllBaseOf s.cfg p) Config.pllAMin Config.pllAMax e.pllA (toneNumerator s.cfg e offs corr) e.pllC (imageWritten base p1 p2 p3 8 nn s) with h | h | ⟨p1', p2', p3', k', nn', e', hp', he', h⟩
              · rw [h]; exact .toneHalf _ _ _ _ _ _ ⟨_, _, rfl⟩ hm hp (by simp)
              · rw [h]; exact .toneHalf _ _ _ _ _ _ ⟨_, _, rfl⟩ hm hp (by simp)
              · rw [h]; exact .tone _ _ _ _ _ _ _ _ _ _ _ _ ⟨_, _, rfl⟩ hm hp hpm hp' he'

/-- The next state of an operation is one of its effects. -/
theorem effect_of_exec {i : Instr} {s t : State} (h : exec i s = .next t) : Effect i s t := by
  obtain ⟨u, h1, h2⟩ := exec_effect i s
  rw [h1] at h
  cases h
  exact h2

end Machine
end Sys2Proof
end

