-- ==== Sys2Proof/Laws/PerInstr.lean ====
section
/-! SUPPORT. The per-instruction family `EncodesInItsRow`: the encoding of every instruction lies in its row of
spec/opcode_table.json. -/

namespace Sys2Proof
namespace Laws
namespace EncodesInItsRow

/-- `op` of an instruction, and which bits of `sel` its row leaves free (the `match` and `mask` columns of
spec/opcode_table.json, 30_encoding.md R61). -/
def row : Instr → Byte × Byte
  | .pack => (0x10, 0xFF)
  | .conv => (0x20, 0xFF)
  | .ilv => (0x30, 0xFF)
  | .merge => (0x40, 0xFF)
  | .encode => (0x50, 0xFF)
  | .brev => (0x60, 0xFF)
  | .pllcfg _ => (0x80, 0xFE)
  | .mscfg _ => (0x90, 0xFC)
  | .drvcfg _ => (0xA0, 0xFC)
  | .tone _ _ => (0xB0, 0xF8)

/-- An instruction's byte matches its row, whatever its fields. -/
def Statement (i : Instr) : Prop := Sys2Proof.encode i &&& (row i).2 = (row i).1

theorem pack : Statement .pack := by unfold Statement; decide
theorem conv : Statement .conv := by unfold Statement; decide
theorem ilv : Statement .ilv := by unfold Statement; decide
theorem merge : Statement .merge := by unfold Statement; decide
theorem encode : Statement .encode := by unfold Statement; decide
theorem brev : Statement .brev := by unfold Statement; decide
theorem pllcfg (pll : Bit) : Statement (.pllcfg pll) := by unfold Statement; revert pll; decide
theorem mscfg (ch : BitVec 2) : Statement (.mscfg ch) := by unfold Statement; revert ch; decide
theorem drvcfg (ch : BitVec 2) : Statement (.drvcfg ch) := by unfold Statement; revert ch; decide
theorem tone (ch : BitVec 2) (pll : Bit) : Statement (.tone ch pll) := by
  unfold Statement; revert ch pll; decide

end EncodesInItsRow
end Laws
end Sys2Proof
end

