-- ==== Sys2Proof/Laws/Registers.lean ====
section
/-! SUPPORT. What the host accesses do: one lemma per case of a step, and what a register write changes. -/

namespace Sys2Proof
namespace Machine

/-! ### The cases of a step -/

theorem step_idle {s : State} (h : s.inputs = []) : step s = .next s := by simp [step, h]

theorem step_act {s : State} {input : Input} {rest : List Input} (h : s.inputs = input :: rest) :
    step s = act input (setInputs rest s) := by simp [step, h]

theorem act_write {s : State} (hb : s.busy = false) (n : BitVec 12) (v : Nat) :
    act (.write n v) s = hostWrite n v s := by simp [act, hb]

theorem act_read {s : State} (hb : s.busy = false) (n : BitVec 12) : act (.read n) s = .next (hostRead n s) := by
  simp [act, hb]

theorem act_reset {s : State} (hb : s.busy = false) : act .reset s = .next s.resetBlock := by simp [act, hb]

/-- The outside world does nothing to a busy block: a step that answers a next state found it idle. -/
theorem act_next_idle {s t : State} {input : Input} (h : act input s = .next t) : s.busy = false := by
  cases hb : s.busy
  · rfl
  · cases input <;> simp [act, hb] at h

theorem hostWrite_cmd (v : Nat) (s : State) : hostWrite 0x000 v s = command (BitVec.ofNat 8 v) s := rfl

theorem hostWrite_reserved {n : BitVec 12} (h : RegName.ofNumber n = none) (v : Nat) (s : State) :
    hostWrite n v s = .next s := by simp [hostWrite, h]

theorem hostWrite_reg {n : BitVec 12} {r : RegName} (h : RegName.ofNumber n = some r) (hr : r ≠ .cmd) (v : Nat)
    (s : State) : hostWrite n v s = .next (writeReg r v s) := by
  unfold hostWrite
  rw [h]
  cases r <;> first | rfl | exact absurd rfl hr

theorem command_stopped {s : State} (h : s.err = .busFault) (v : Byte) : command v s = .next s := by
  simp [command, stopped, h]

theorem command_illegal {s : State} (h : s.err ≠ .busFault) {v : Byte} {e : DecodeError}
    (hd : decode v = .error e) : command v s = endWith .illegalCommand (setBusy s) := by
  simp [command, stopped, h, hd]

theorem command_exec {s : State} (h : s.err ≠ .busFault) {v : Byte} {i : Instr} (hd : decode v = .ok i) :
    command v s = exec i (setBusy s) := by simp [command, stopped, h, hd]

/-- Everything a step with a next state can have been: idle, a reset, a read, a write with no effect, a register
write, a command ignored, an illegal command, or an operation run. -/
theorem step_cases {s t : State} (h : step s = .next t) :
    (s.inputs = [] ∧ t = s) ∨
    ∃ input rest, s.inputs = input :: rest ∧ s.busy = false ∧
      ((input = .reset ∧ t = (setInputs rest s).resetBlock) ∨
       (∃ n, input = .read n ∧ t = hostRead n (setInputs rest s)) ∨
       ∃ n v, input = .write n v ∧
        ((t = setInputs rest s) ∨
         (∃ r, r ≠ .cmd ∧ t = writeReg r v (setInputs rest s)) ∨
         (s.err ≠ .busFault ∧ endWith .illegalCommand (setBusy (setInputs rest s)) = .next t) ∨
         ∃ i, s.err ≠ .busFault ∧ exec i (setBusy (setInputs rest s)) = .next t)) := by
  cases hi : s.inputs with
  | nil => rw [step_idle hi] at h; cases h; exact .inl ⟨rfl, rfl⟩
  | cons input rest =>
    rw [step_act hi] at h
    have hb : s.busy = false := act_next_idle (s := setInputs rest s) h
    refine .inr ⟨input, rest, rfl, hb, ?_⟩
    cases input with
    | reset => rw [act_reset (by exact hb)] at h; cases h; exact .inl ⟨rfl, rfl⟩
    | read n => rw [act_read (by exact hb)] at h; cases h; exact .inr (.inl ⟨n, rfl, rfl⟩)
    | write n v =>
      refine .inr (.inr ⟨n, v, rfl, ?_⟩)
      rw [act_write (by exact hb)] at h
      cases hr : RegName.ofNumber n with
      | none => rw [hostWrite_reserved hr] at h; cases h; exact .inl rfl
      | some r =>
        by_cases hc : r = .cmd
        · subst hc
          simp only [hostWrite, hr] at h
          by_cases he : s.err = .busFault
          · rw [command_stopped (by exact he)] at h; cases h; exact .inl rfl
          · cases hd : decode (BitVec.ofNat 8 v) with
            | error e => rw [command_illegal (by exact he) hd] at h; exact .inr (.inr (.inl ⟨he, h⟩))
            | ok i => rw [command_exec (by exact he) hd] at h; exact .inr (.inr (.inr ⟨i, he, h⟩))
        · rw [hostWrite_reg hr hc] at h; cases h; exact .inr (.inl ⟨r, hc, rfl⟩)

/-! ### Register writes -/

/-- A register write leaves everything but the registers as it is. -/
theorem writeReg_others (r : RegName) (v : Nat) (s : State) :
    (writeReg r v s).err = s.err ∧ (writeReg r v s).busy = s.busy ∧ (writeReg r v s).busLog = s.busLog ∧
    (writeReg r v s).cfg = s.cfg ∧ (writeReg r v s).inputs = s.inputs ∧
    (writeReg r v s).busReplies = s.busReplies ∧ (writeReg r v s).busCount = s.busCount ∧
    (writeReg r v s).readCount = s.readCount ∧ (writeReg r v s).responses = s.responses := by
  cases r <;> exact ⟨rfl, rfl, rfl, rfl, rfl, rfl, rfl, rfl, rfl⟩

/-- The host cannot write a result register (10_state.md R11). -/
theorem writeReg_results (r : RegName) (v : Nat) (s : State) :
    (writeReg r v s).csc = s.csc ∧ (writeReg r v s).grd = s.grd ∧ (writeReg r v s).lpc = s.lpc ∧
    (writeReg r v s).r0 = s.r0 ∧ (writeReg r v s).r1 = s.r1 ∧ (writeReg r v s).p1 = s.p1 ∧
    (writeReg r v s).p2 = s.p2 ∧ (writeReg r v s).p3 = s.p3 ∧ (writeReg r v s).imgbase = s.imgbase ∧
    (writeReg r v s).img = s.img ∧ (writeReg r v s).sym = s.sym := by
  cases r <;> exact ⟨rfl, rfl, rfl, rfl, rfl, rfl, rfl, rfl, rfl, rfl, rfl⟩

/-- A write to a register that is not read-write changes nothing. -/
theorem writeReg_readOnly {r : RegName} (hr : r.readWrite = false) (v : Nat) (s : State) : writeReg r v s = s := by
  cases r <;> first | rfl | simp [RegName.readWrite] at hr

/-- A write to a read-write register sets it to the datum truncated to its width. -/
theorem regValue_writeReg_self {r : RegName} (hr : r.readWrite = true) (v : Nat) (s : State) :
    regValue (writeReg r v s) r = some (v % 2 ^ regWidth s r) := by
  cases r <;> simp_all [writeReg, RegName.readWrite, regValue, regWidth]

/-- A write to one register leaves the value of every other, `STATUS` apart. -/
theorem regValue_writeReg_ne {r q : RegName} (hq : q ≠ r) (hs : q ≠ .status) (v : Nat) (s : State) :
    regValue (writeReg r v s) q = regValue s q := by
  cases r <;> cases q <;> simp_all [writeReg, regValue, Fin.ext_iff, eq_comm]

theorem regValue_setInputs (rest : List Input) (s : State) (r : RegName) :
    regValue (setInputs rest s) r = regValue s r := by cases r <;> rfl

theorem regValue_hostRead (n : BitVec 12) (s : State) (r : RegName) :
    regValue (hostRead n s) r = regValue s r := by cases r <;> rfl

/-- What a host read of a named register returns. -/
theorem hostReadValue_written {n : BitVec 12} {r : RegName} {s : State} {x : Nat} (h : RegName.ofNumber n = some r)
    (hv : regValue s r = some x) : hostReadValue n s = x := by
  unfold hostReadValue
  rw [h]
  cases r <;> first | simp only [hv]; done | cases hv

theorem hostReadValue_unwritten {n : BitVec 12} {r : RegName} {s : State} (h : RegName.ofNumber n = some r)
    (hc : r ≠ .cmd) (hv : regValue s r = none) :
    hostReadValue n s = Config.freeRead s.readCount % 2 ^ regWidth s r := by
  unfold hostReadValue
  rw [h]
  cases r <;> first | exact absurd rfl hc | simp only [hv]

/-- What a host read of `CMD` or of a reserved number returns: a free value. -/
theorem hostReadValue_unnamed {n : BitVec 12} (h : n = 0x000 ∨ RegName.ofNumber n = none) (s : State) :
    hostReadValue n s = Config.freeRead s.readCount := by
  rcases h with rfl | h
  · rfl
  · simp [hostReadValue, h]

end Machine
end Sys2Proof
end

