-- ==== Sys2Proof/Laws/Updates.lean ====
section
/-! SUPPORT. One lemma per field for the updates the effects of an operation are written with. -/

namespace Sys2Proof
namespace Machine

/-! ### The end of an operation -/

section
variable (e : ErrCode) (s : State)

@[simp] theorem endState_cfg : (endState e s).cfg = s.cfg := rfl
@[simp] theorem endState_err : (endState e s).err = e := rfl
@[simp] theorem endState_busy : (endState e s).busy = false := rfl
@[simp] theorem endState_pwr : (endState e s).pwr = s.pwr := rfl
@[simp] theorem endState_clen : (endState e s).clen = s.clen := rfl
@[simp] theorem endState_brv : (endState e s).brv = s.brv := rfl
@[simp] theorem endState_drvop : (endState e s).drvop = s.drvop := rfl
@[simp] theorem endState_band : (endState e s).band = s.band := rfl
@[simp] theorem endState_a : (endState e s).a = s.a := rfl
@[simp] theorem endState_b : (endState e s).b = s.b := rfl
@[simp] theorem endState_c : (endState e s).c = s.c := rfl
@[simp] theorem endState_offs : (endState e s).offs = s.offs := rfl
@[simp] theorem endState_corr : (endState e s).corr = s.corr := rfl
@[simp] theorem endState_call : (endState e s).call = s.call := rfl
@[simp] theorem endState_grid : (endState e s).grid = s.grid := rfl
@[simp] theorem endState_csc : (endState e s).csc = s.csc := rfl
@[simp] theorem endState_grd : (endState e s).grd = s.grd := rfl
@[simp] theorem endState_lpc : (endState e s).lpc = s.lpc := rfl
@[simp] theorem endState_msg : (endState e s).msg = s.msg := rfl
@[simp] theorem endState_r0 : (endState e s).r0 = s.r0 := rfl
@[simp] theorem endState_r1 : (endState e s).r1 = s.r1 := rfl
@[simp] theorem endState_p1 : (endState e s).p1 = s.p1 := rfl
@[simp] theorem endState_p2 : (endState e s).p2 = s.p2 := rfl
@[simp] theorem endState_p3 : (endState e s).p3 = s.p3 := rfl
@[simp] theorem endState_imgbase : (endState e s).imgbase = s.imgbase := rfl
@[simp] theorem endState_img : (endState e s).img = s.img := rfl
@[simp] theorem endState_fec : (endState e s).fec = s.fec := rfl
@[simp] theorem endState_ilv : (endState e s).ilv = s.ilv := rfl
@[simp] theorem endState_sym : (endState e s).sym = s.sym := rfl
@[simp] theorem endState_busLog : (endState e s).busLog = s.busLog := rfl
@[simp] theorem endState_inputs : (endState e s).inputs = s.inputs := rfl
@[simp] theorem endState_busReplies : (endState e s).busReplies = s.busReplies := rfl
@[simp] theorem endState_busCount : (endState e s).busCount = s.busCount := rfl
@[simp] theorem endState_readCount : (endState e s).readCount = s.readCount := rfl
@[simp] theorem endState_responses : (endState e s).responses = s.responses := rfl

end

/-! ### A run of bus accesses -/

section
variable (events : List BusEvent) (n : Nat) (s : State)

@[simp] theorem busAdvance_cfg : (busAdvance events n s).cfg = s.cfg := rfl
@[simp] theorem busAdvance_err : (busAdvance events n s).err = s.err := rfl
@[simp] theorem busAdvance_busy : (busAdvance events n s).busy = s.busy := rfl
@[simp] theorem busAdvance_pwr : (busAdvance events n s).pwr = s.pwr := rfl
@[simp] theorem busAdvance_clen : (busAdvance events n s).clen = s.clen := rfl
@[simp] theorem busAdvance_brv : (busAdvance events n s).brv = s.brv := rfl
@[simp] theorem busAdvance_drvop : (busAdvance events n s).drvop = s.drvop := rfl
@[simp] theorem busAdvance_band : (busAdvance events n s).band = s.band := rfl
@[simp] theorem busAdvance_a : (busAdvance events n s).a = s.a := rfl
@[simp] theorem busAdvance_b : (busAdvance events n s).b = s.b := rfl
@[simp] theorem busAdvance_c : (busAdvance events n s).c = s.c := rfl
@[simp] theorem busAdvance_offs : (busAdvance events n s).offs = s.offs := rfl
@[simp] theorem busAdvance_corr : (busAdvance events n s).corr = s.corr := rfl
@[simp] theorem busAdvance_call : (busAdvance events n s).call = s.call := rfl
@[simp] theorem busAdvance_grid : (busAdvance events n s).grid = s.grid := rfl
@[simp] theorem busAdvance_csc : (busAdvance events n s).csc = s.csc := rfl
@[simp] theorem busAdvance_grd : (busAdvance events n s).grd = s.grd := rfl
@[simp] theorem busAdvance_lpc : (busAdvance events n s).lpc = s.lpc := rfl
@[simp] theorem busAdvance_msg : (busAdvance events n s).msg = s.msg := rfl
@[simp] theorem busAdvance_r0 : (busAdvance events n s).r0 = s.r0 := rfl
@[simp] theorem busAdvance_r1 : (busAdvance events n s).r1 = s.r1 := rfl
@[simp] theorem busAdvance_p1 : (busAdvance events n s).p1 = s.p1 := rfl
@[simp] theorem busAdvance_p2 : (busAdvance events n s).p2 = s.p2 := rfl
@[simp] theorem busAdvance_p3 : (busAdvance events n s).p3 = s.p3 := rfl
@[simp] theorem busAdvance_imgbase : (busAdvance events n s).imgbase = s.imgbase := rfl
@[simp] theorem busAdvance_img : (busAdvance events n s).img = s.img := rfl
@[simp] theorem busAdvance_fec : (busAdvance events n s).fec = s.fec := rfl
@[simp] theorem busAdvance_ilv : (busAdvance events n s).ilv = s.ilv := rfl
@[simp] theorem busAdvance_sym : (busAdvance events n s).sym = s.sym := rfl
@[simp] theorem busAdvance_busLog : (busAdvance events n s).busLog = s.busLog ++ events := rfl
@[simp] theorem busAdvance_inputs : (busAdvance events n s).inputs = s.inputs := rfl
@[simp] theorem busAdvance_busReplies : (busAdvance events n s).busReplies = s.busReplies.drop n := rfl
@[simp] theorem busAdvance_busCount : (busAdvance events n s).busCount = s.busCount + n := rfl
@[simp] theorem busAdvance_readCount : (busAdvance events n s).readCount = s.readCount := rfl
@[simp] theorem busAdvance_responses : (busAdvance events n s).responses = s.responses := rfl

end

/-! ### The results of `ENCODE` -/

section
variable (r : Packed) (ilv : Vector Bit 162) (s : State)

@[simp] theorem storeEncoded_cfg : (storeEncoded r ilv s).cfg = s.cfg := rfl
@[simp] theorem storeEncoded_err : (storeEncoded r ilv s).err = s.err := rfl
@[simp] theorem storeEncoded_busy : (storeEncoded r ilv s).busy = s.busy := rfl
@[simp] theorem storeEncoded_pwr : (storeEncoded r ilv s).pwr = s.pwr := rfl
@[simp] theorem storeEncoded_clen : (storeEncoded r ilv s).clen = s.clen := rfl
@[simp] theorem storeEncoded_brv : (storeEncoded r ilv s).brv = s.brv := rfl
@[simp] theorem storeEncoded_drvop : (storeEncoded r ilv s).drvop = s.drvop := rfl
@[simp] theorem storeEncoded_band : (storeEncoded r ilv s).band = s.band := rfl
@[simp] theorem storeEncoded_a : (storeEncoded r ilv s).a = s.a := rfl
@[simp] theorem storeEncoded_b : (storeEncoded r ilv s).b = s.b := rfl
@[simp] theorem storeEncoded_c : (storeEncoded r ilv s).c = s.c := rfl
@[simp] theorem storeEncoded_offs : (storeEncoded r ilv s).offs = s.offs := rfl
@[simp] theorem storeEncoded_corr : (storeEncoded r ilv s).corr = s.corr := rfl
@[simp] theorem storeEncoded_call : (storeEncoded r ilv s).call = s.call := rfl
@[simp] theorem storeEncoded_grid : (storeEncoded r ilv s).grid = s.grid := rfl
@[simp] theorem storeEncoded_csc : (storeEncoded r ilv s).csc = some r.csc := rfl
@[simp] theorem storeEncoded_grd : (storeEncoded r ilv s).grd = some r.grd := rfl
@[simp] theorem storeEncoded_lpc : (storeEncoded r ilv s).lpc = some r.lpc := rfl
@[simp] theorem storeEncoded_msg : (storeEncoded r ilv s).msg = r.msg.map some := rfl
@[simp] theorem storeEncoded_r0 : (storeEncoded r ilv s).r0 = some (convolve r.msg).1 := rfl
@[simp] theorem storeEncoded_r1 : (storeEncoded r ilv s).r1 = some (convolve r.msg).2.1 := rfl
@[simp] theorem storeEncoded_p1 : (storeEncoded r ilv s).p1 = s.p1 := rfl
@[simp] theorem storeEncoded_p2 : (storeEncoded r ilv s).p2 = s.p2 := rfl
@[simp] theorem storeEncoded_p3 : (storeEncoded r ilv s).p3 = s.p3 := rfl
@[simp] theorem storeEncoded_imgbase : (storeEncoded r ilv s).imgbase = s.imgbase := rfl
@[simp] theorem storeEncoded_img : (storeEncoded r ilv s).img = s.img := rfl
@[simp] theorem storeEncoded_fec : (storeEncoded r ilv s).fec = (convolve r.msg).2.2.map some := rfl
@[simp] theorem storeEncoded_ilv : (storeEncoded r ilv s).ilv = ilv.map some := rfl
@[simp] theorem storeEncoded_sym : (storeEncoded r ilv s).sym = (merge s.cfg.sync ilv).map some := rfl
@[simp] theorem storeEncoded_busLog : (storeEncoded r ilv s).busLog = s.busLog := rfl
@[simp] theorem storeEncoded_inputs : (storeEncoded r ilv s).inputs = s.inputs := rfl
@[simp] theorem storeEncoded_busReplies : (storeEncoded r ilv s).busReplies = s.busReplies := rfl
@[simp] theorem storeEncoded_busCount : (storeEncoded r ilv s).busCount = s.busCount := rfl
@[simp] theorem storeEncoded_readCount : (storeEncoded r ilv s).readCount = s.readCount := rfl
@[simp] theorem storeEncoded_responses : (storeEncoded r ilv s).responses = s.responses := rfl

end

/-! ### A stored image with some of its writes -/

section
variable (base : Byte) (p1 : BitVec 18) (p2 p3 : BitVec 20) (k n : Nat) (s : State)

@[simp] theorem imageWritten_cfg : (imageWritten base p1 p2 p3 k n s).cfg = s.cfg := rfl
@[simp] theorem imageWritten_err : (imageWritten base p1 p2 p3 k n s).err = s.err := rfl
@[simp] theorem imageWritten_busy : (imageWritten base p1 p2 p3 k n s).busy = s.busy := rfl
@[simp] theorem imageWritten_pwr : (imageWritten base p1 p2 p3 k n s).pwr = s.pwr := rfl
@[simp] theorem imageWritten_clen : (imageWritten base p1 p2 p3 k n s).clen = s.clen := rfl
@[simp] theorem imageWritten_brv : (imageWritten base p1 p2 p3 k n s).brv = s.brv := rfl
@[simp] theorem imageWritten_drvop : (imageWritten base p1 p2 p3 k n s).drvop = s.drvop := rfl
@[simp] theorem imageWritten_band : (imageWritten base p1 p2 p3 k n s).band = s.band := rfl
@[simp] theorem imageWritten_a : (imageWritten base p1 p2 p3 k n s).a = s.a := rfl
@[simp] theorem imageWritten_b : (imageWritten base p1 p2 p3 k n s).b = s.b := rfl
@[simp] theorem imageWritten_c : (imageWritten base p1 p2 p3 k n s).c = s.c := rfl
@[simp] theorem imageWritten_offs : (imageWritten base p1 p2 p3 k n s).offs = s.offs := rfl
@[simp] theorem imageWritten_corr : (imageWritten base p1 p2 p3 k n s).corr = s.corr := rfl
@[simp] theorem imageWritten_call : (imageWritten base p1 p2 p3 k n s).call = s.call := rfl
@[simp] theorem imageWritten_grid : (imageWritten base p1 p2 p3 k n s).grid = s.grid := rfl
@[simp] theorem imageWritten_csc : (imageWritten base p1 p2 p3 k n s).csc = s.csc := rfl
@[simp] theorem imageWritten_grd : (imageWritten base p1 p2 p3 k n s).grd = s.grd := rfl
@[simp] theorem imageWritten_lpc : (imageWritten base p1 p2 p3 k n s).lpc = s.lpc := rfl
@[simp] theorem imageWritten_msg : (imageWritten base p1 p2 p3 k n s).msg = s.msg := rfl
@[simp] theorem imageWritten_r0 : (imageWritten base p1 p2 p3 k n s).r0 = s.r0 := rfl
@[simp] theorem imageWritten_r1 : (imageWritten base p1 p2 p3 k n s).r1 = s.r1 := rfl
@[simp] theorem imageWritten_p1 : (imageWritten base p1 p2 p3 k n s).p1 = some p1 := rfl
@[simp] theorem imageWritten_p2 : (imageWritten base p1 p2 p3 k n s).p2 = some p2 := rfl
@[simp] theorem imageWritten_p3 : (imageWritten base p1 p2 p3 k n s).p3 = some p3 := rfl
@[simp] theorem imageWritten_imgbase : (imageWritten base p1 p2 p3 k n s).imgbase = some base := rfl
@[simp] theorem imageWritten_img : (imageWritten base p1 p2 p3 k n s).img = (imageBytes p1 p2 p3).map some := rfl
@[simp] theorem imageWritten_fec : (imageWritten base p1 p2 p3 k n s).fec = s.fec := rfl
@[simp] theorem imageWritten_ilv : (imageWritten base p1 p2 p3 k n s).ilv = s.ilv := rfl
@[simp] theorem imageWritten_sym : (imageWritten base p1 p2 p3 k n s).sym = s.sym := rfl
@[simp] theorem imageWritten_busLog : (imageWritten base p1 p2 p3 k n s).busLog = s.busLog ++ writeEvents ((imageWrites base (imageBytes p1 p2 p3)).take k) := rfl
@[simp] theorem imageWritten_inputs : (imageWritten base p1 p2 p3 k n s).inputs = s.inputs := rfl
@[simp] theorem imageWritten_busReplies : (imageWritten base p1 p2 p3 k n s).busReplies = s.busReplies.drop n := rfl
@[simp] theorem imageWritten_busCount : (imageWritten base p1 p2 p3 k n s).busCount = s.busCount + n := rfl
@[simp] theorem imageWritten_readCount : (imageWritten base p1 p2 p3 k n s).readCount = s.readCount := rfl
@[simp] theorem imageWritten_responses : (imageWritten base p1 p2 p3 k n s).responses = s.responses := rfl

end

end Machine
end Sys2Proof
end

