-- ==== Sys2Proof/Tests/Slice0.lean ====
section
/-! SUPPORT. The model's own tests: decoding, well-formedness, at most two small tests per instruction (the expected
values are the vectors of spec/95_test_vectors.md), and a witness for the hypotheses of every statement. -/

namespace Sys2Proof
namespace Tests

open Sys2Proof.Machine Sys2Proof.Safety Sys2Proof.Spec

/-! ### The machine the tests run: the illustrative addresses and band table of the vectors -/

/-- The band table of V25; patterns 0 to 4 of `OFFS` and `CORR` denote the hertz of V25's rows. -/
def testParams : Params where
  pllBase := #v[26, 34]
  msBase := #v[42, 50, 58]
  clkCtrl := #v[16, 17, 18]
  bandTab := [(0x14, ⟨28, 200052, 1023890, 50, 256 / 375⟩), (0x28, ⟨30, 500000, 1000000, 100, 1 / 2⟩),
    (0x50, ⟨90, 0, 1, 4, 1⟩)]
  hz := ⟨8, [(0, 0), (1, 1500), (2, -300000), (3, 1961), (4, 1962), (5, 1300000)]⟩

/-- V25's configuration. -/
def testConfig : Config := ⟨Config.defaultSync, ⟨testParams, by decide +kernel⟩⟩

/-- The reset state with V25's configuration. -/
def blank : State := { State.reset with cfg := testConfig }

/-- A callsign of up to 16 bytes in the first elements of `CALL`. -/
def callRegs (s : List Byte) : Vector (Reg 8) 16 := Vector.ofFn fun k => s[k.val]?

/-- The operands of `PACK`. -/
def packState (pwr : Byte) (call : List Byte) (grid : Vector Byte 4) : State :=
  { blank with
    pwr := some pwr, clen := some (BitVec.ofNat 8 call.length), call := callRegs call, grid := grid.map some }

/-- The operands of `PLLCFG` and `MSCFG`. -/
def ratioState (a b c : Nat) (replies : List BusReply) : State :=
  { blank with
    a := some (BitVec.ofNat 32 a), b := some (BitVec.ofNat 32 b), c := some (BitVec.ofNat 32 c),
    busReplies := replies }

/-- The operands of `TONE`. -/
def toneState (band : Byte) (offs corr : Nat) (replies : List BusReply) : State :=
  { blank with band := some band, offs := some offs, corr := some corr, busReplies := replies }

/-- `n` completed bus accesses. -/
def completes (n : Nat) : List BusReply := (List.replicate n (0 : Byte)).map .done

/-- A host action pending. -/
def pending (input : Input) (s : State) : State := { s with inputs := [input] }

/-- The state an operation leaves. -/
def after (i : Instr) (s : State) : State :=
  match exec i s with
  | .next t => t
  | .fault _ => s
  | .refused _ => s

/-- The state a step leaves. -/
def stepped (s : State) : State :=
  match step s with
  | .next t => t
  | .fault _ => s
  | .refused _ => s

theorem exec_after (i : Instr) (s : State) : exec i s = .next (after i s) := by
  obtain ⟨t, h, -⟩ := exec_effect i s
  simp [after, h]

/-- 162 written bits, element 0 first, from a number. -/
def bits (n : Nat) : Vector (Reg 1) 162 :=
  ⟨((List.range 162).map fun i => some (BitVec.ofNat 1 (n >>> (161 - i)))).toArray, by simp⟩

/-- `"K1ABC"`. -/
def k1abc : List Byte := [0x4B, 0x31, 0x41, 0x42, 0x43]

/-- `"FN42"`. -/
def fn42 : Vector Byte 4 := #v[0x46, 0x4E, 0x34, 0x32]

/-- The operands of V10. -/
def v10 : State := packState 37 k1abc fn42

/-- `MSG` of V10. -/
def v10Msg : Vector Byte 7 := #v[0xF7, 0x0C, 0x23, 0x8B, 0x0D, 0x19, 0x40]

/-- `FEC` of V10. -/
def v10Fec : Nat := 0x3be393552ae36c7e7fbab5445e07f6a33db55634f

/-- `ILV` of V10. -/
def v10Ilv : Nat := 0x320971de8cf3c79b76a4ad9eea8d1daee067eff97

/-! ### Decoding: a word of each row, written from the `op` and `sel` columns of 30_encoding.md R61 -/

theorem test_decode_pack : (decode 0b0001_0000).toOption = some .pack := by decide
theorem test_decode_conv : (decode 0b0010_0000).toOption = some .conv := by decide
theorem test_decode_ilv : (decode 0b0011_0000).toOption = some .ilv := by decide
theorem test_decode_merge : (decode 0b0100_0000).toOption = some .merge := by decide
theorem test_decode_encode : (decode 0b0101_0000).toOption = some .encode := by decide
theorem test_decode_brev : (decode 0b0110_0000).toOption = some .brev := by decide
theorem test_decode_pllcfg : (decode 0b1000_0001).toOption = some (.pllcfg 1) := by decide
theorem test_decode_mscfg : (decode 0b1001_0010).toOption = some (.mscfg 2) := by decide
theorem test_decode_drvcfg : (decode 0b1010_0001).toOption = some (.drvcfg 1) := by decide
theorem test_decode_tone : (decode 0b1011_0110).toOption = some (.tone 2 1) := by decide

/-- V27's illegal bytes. -/
theorem test_decode_illegal :
    ([0x00, 0x0F, 0x11, 0x58, 0x70, 0x82, 0x93, 0xA3, 0xA4, 0xB3, 0xB7, 0xB8, 0xC0, 0xFF] : List Byte).all
      (fun b => (decode b).toOption = none) = true := by decide

/-- The two reasons have names. -/
theorem test_decode_names_the_reason :
    (match decode 0x70, decode 0x93 with | .error .reservedOp, .error .reservedSel => true | _, _ => false) = true := by
  decide

/-- `encode` gives the bytes of R65. -/
theorem test_encode_bytes :
    encode (.pllcfg 1) = 0x81 ∧ encode (.mscfg 2) = 0x92 ∧ encode (.drvcfg 2) = 0xA2 ∧ encode (.tone 2 1) = 0xB6 := by
  decide

/-! ### Well-formedness refuses the channel 3 in each row that has a channel (R63) -/

theorem test_wf_mscfg_channel : (Instr.mscfg 3).wf = false := by decide
theorem test_wf_drvcfg_channel : (Instr.drvcfg 3).wf = false := by decide
theorem test_wf_tone_channel : (Instr.tone 3 0).wf = false ∧ (Instr.tone 3 1).wf = false := by decide

/-! ### The configuration that is sampled exists; the machine fetches what the host places -/

/-- A command placed by `withFetchWord` is the next step's: from reset, `CONV` finds no message. -/
theorem test_withFetchWord_runs_conv :
    (stepped (State.reset.withFetchWord 8 0x20)).err = .notReady ∧
      (stepped (State.reset.withFetchWord 8 0x93)).err = .illegalCommand ∧
      (stepped (State.reset.withFetchWord 8 0xB6)).err = .notReady := by decide +kernel

/-! ### `PACK` -/

/-- V14, first row. -/
theorem test_pack_v14 :
    (after .pack v10).csc = some 0xF70C238 ∧ (after .pack v10).grd = some 22632 ∧
      (after .pack v10).lpc = some 0x2C3465 ∧ (after .pack v10).msg = v10Msg.map some ∧
      statusWord (after .pack v10) = 0x0020 := by decide +kernel

/-- V15: the first failing test is reported. -/
theorem test_pack_v15 :
    (after .pack (packState 61 [0x6B, 0x31, 0x61, 0x62, 0x63] #v[0x7A, 0x7A, 0x39, 0x39])).err = .invalidPower ∧
      (after .pack (packState 37 [0x4B, 0x31, 0x41, 0x32, 0x21] fn42)).err = .invalidCharacter ∧
      (after .pack (packState 37 [0x56, 0x4B, 0x32, 0x41, 0x42, 0x43, 0x44] fn42)).err = .invalidCallsign ∧
      (after .pack (packState 37 k1abc #v[0x46, 0x4E, 0x34, 0x20])).err = .invalidLocator := by decide +kernel

/-! ### `CONV` -/

/-- V10: the first eight steps, and the registers at the end. -/
theorem test_conv_v10 :
    (after .conv { blank with msg := v10Msg.map some }).fec.toList.take 16 =
        [1, 1, 1, 0, 1, 1, 1, 1, 1, 0, 0, 0, 1, 1, 1, 0].map some ∧
      (after .conv { blank with msg := v10Msg.map some }).r0 = some 0x80000000 := by decide +kernel

/-- V12, the impulse at the last message bit: where its pattern starts, and the registers. -/
theorem test_conv_v12 :
    ((after .conv { blank with msg := #v[some 0, some 0, some 0, some 0, some 0, some 0, some 1] }).fec.toList.drop
        108).take 8 = [0, 0, 1, 1, 0, 1, 0, 1].map some ∧
      (after .conv { blank with msg := #v[some 0, some 0, some 0, some 0, some 0, some 0, some 1] }).r1 =
        some 0x02000000 := by decide +kernel

/-! ### `ILV` -/

/-- V20, the one-hot row 1. -/
theorem test_ilv_v20 : (after .ilv { blank with fec := bits (2 ^ 160) }).ilv[128] = some 1 := by decide +kernel

/-! ### `MERGE` -/

/-- V21, all ones: the first and the last six symbols of the row. -/
theorem test_merge_v21 :
    (after .merge { blank with ilv := bits (2 ^ 162 - 1) }).sym.toList.take 6 = [3, 3, 2, 2, 2, 2].map some ∧
      (after .merge { blank with ilv := bits (2 ^ 162 - 1) }).sym.toList.drop 156 = [2, 3, 3, 2, 2, 2].map some := by
  decide +kernel

/-! ### `ENCODE` -/

/-- V10 as one command: its first eighteen symbols, which need `PACK`, `CONV`, `ILV`, `MERGE` and the sync vector. -/
theorem test_encode_v10 :
    (after .encode v10).sym.toList.take 18 =
      [3, 3, 0, 0, 2, 0, 0, 0, 1, 0, 2, 0, 1, 3, 1, 2, 2, 2].map some := by decide +kernel

/-! ### `BREV` -/

/-- V19. -/
theorem test_brev_v19 :
    (after .brev { blank with brv := some 0x01 }).brv = some 0x80 ∧
      (after .brev { blank with brv := some 0xA1 }).brv = some 0x85 := by decide

/-! ### `PLLCFG` and `MSCFG` -/

/-- V22, second row. -/
theorem test_pllcfg_v22 :
    (after (.pllcfg 0) (ratioState 28 200052 1023890 (completes 8))).img =
        #v[some 0x9F, some 0x92, some 0x00, some 0x0C, some 0x19, some 0xF0, some 0x24, some 0xBE] ∧
      (after (.pllcfg 0) (ratioState 28 200052 1023890 (completes 8))).busLog =
        [.write 26 0x9F, .write 27 0x92, .write 28 0x00, .write 29 0x0C, .write 30 0x19, .write 31 0xF0,
          .write 32 0x24, .write 33 0xBE] := by decide +kernel

/-- Program P6: the sixth write fails. -/
theorem test_pllcfg_p6 :
    (after (.pllcfg 1) (ratioState 28 0 500 (completes 5 ++ [.failed]))).busLog =
        [.write 34 0x01, .write 35 0xF4, .write 36 0x00, .write 37 0x0C, .write 38 0x00] ∧
      statusWord (after (.pllcfg 1) (ratioState 28 0 500 (completes 5 ++ [.failed]))) = 0x020A := by decide +kernel

/-- V23, the largest fractional row. -/
theorem test_mscfg_v23 :
    (after (.mscfg 1) (ratioState 2048 1048574 1048575 (completes 8))).img =
        #v[some 0xFF, some 0xFF, some 0x03, some 0xFE, some 0x7F, some 0xFF, some 0xFF, some 0x7F] ∧
      (after (.mscfg 1) (ratioState 2048 1048574 1048575 (completes 8))).imgbase = some 50 := by decide +kernel

/-- V23, the two error rows. -/
theorem test_mscfg_v23_errors :
    (after (.mscfg 0) (ratioState 4 2048 1 (completes 8))).err = .unrepresentable ∧
      (after (.mscfg 0) (ratioState 2049 0 1 (completes 8))).err = .outOfRange := by decide +kernel

/-! ### `DRVCFG` -/

/-- V24, first and last row. -/
theorem test_drvcfg_v24 :
    (after (.drvcfg 0) { blank with drvop := some 0x4F, busReplies := [.done 0x80, .done 0] }).busLog =
        [.read 16 0x80, .write 16 0xCF] ∧
      (after (.drvcfg 2) { blank with drvop := some 0x0C, busReplies := [.done 0x83, .done 0] }).busLog =
        [.read 18 0x83, .write 18 0x8C] := by decide +kernel

/-! ### `TONE` -/

/-- V25, first row. -/
theorem test_tone_v25 :
    (after (.tone 0 0) (toneState 0x14 1 0 (completes 16))).busLog =
      [.write 42 0x00, .write 43 0x01, .write 44 0x00, .write 45 0x17, .write 46 0x00, .write 47 0x00, .write 48 0x00,
        .write 49 0x00, .write 26 0x9F, .write 27 0x92, .write 28 0x00, .write 29 0x0C, .write 30 0x19,
        .write 31 0xF2, .write 32 0x24, .write 33 0xBE] := by decide +kernel

/-- V25, a failure after the first image, and an absent band. -/
theorem test_tone_v25_errors :
    (after (.tone 0 0) (toneState 0x14 0 2 (completes 16))).err = .outOfRange ∧
      (after (.tone 0 0) (toneState 0x14 0 2 (completes 16))).imgbase = some 42 ∧
      (after (.tone 0 0) (toneState 0x50 4 0 (completes 16))).err = .unrepresentable ∧
      (after (.tone 0 0) (toneState 0x15 1 0 (completes 16))).err = .unsupportedBand := by decide +kernel

/-- V26, second row. -/
theorem test_fout_v26 : fout 25000000 ⟨28, 1, 2⟩ ⟨6, 1, 3⟩ = some 112500000 := by decide +kernel

/-! ### Witnesses: a state and operands that meet all hypotheses of a statement together -/

theorem witness_StepRunsTheDecodedCommand :
    (pending (.write 0x000 0x60) blank).inputs = .write 0x000 0x60 :: [] ∧
      (pending (.write 0x000 0x60) blank).busy = false ∧ (pending (.write 0x000 0x60) blank).err ≠ .busFault ∧
      decode (BitVec.ofNat 8 0x60) = .ok .brev := ⟨rfl, rfl, by decide, rfl⟩

theorem witness_IllegalByteOnlySetsErr :
    (pending (.write 0x000 0xB3) blank).inputs = .write 0x000 0xB3 :: [] ∧
      (pending (.write 0x000 0xB3) blank).busy = false ∧ (pending (.write 0x000 0xB3) blank).err ≠ .busFault ∧
      decode (BitVec.ofNat 8 0xB3) = .error .reservedSel := ⟨rfl, rfl, by decide, rfl⟩

/-- A stopped block. -/
def halted : State := { blank with err := .busFault }

theorem witness_StoppedBlockIgnoresCommands :
    (pending (.write 0x000 0x60) halted).inputs = .write 0x000 0x60 :: [] ∧
      (pending (.write 0x000 0x60) halted).busy = false ∧ (pending (.write 0x000 0x60) halted).err = .busFault :=
  ⟨rfl, rfl, rfl⟩

theorem witness_StoppedUntilReset :
    (pending (.write 0x000 0x60) halted).err = .busFault ∧
      (∀ rest, (pending (.write 0x000 0x60) halted).inputs ≠ .reset :: rest) ∧
      step (pending (.write 0x000 0x60) halted) = .next (setInputs [] halted) :=
  ⟨rfl, by simp [pending], rfl⟩

theorem witness_HostWriteSetsOneElement :
    (pending (.write (RegName.sym 0).number 3) blank).inputs ≠ [] ∧
      (pending (.write (RegName.ilv 161).number 257) blank).inputs = .write (RegName.ilv 161).number 257 :: [] ∧
      (pending (.write (RegName.ilv 161).number 257) blank).busy = false ∧ (RegName.ilv 161).readWrite = true :=
  ⟨by simp [pending], rfl, rfl, rfl⟩

/-- A reserved number, `STATUS`, and the last read-only element. -/
theorem witness_HostWriteElsewhereHasNoEffect :
    (pending (.write 0x007 1) blank).inputs = .write 0x007 1 :: [] ∧ (pending (.write 0x007 1) blank).busy = false ∧
      RegName.ofNumber 0x007 = none ∧ RegName.ofNumber 0x3A2 = none ∧
      (RegName.ofNumber 0x001 = some .status ∧ RegName.status ≠ .cmd ∧ RegName.status.readWrite = false) ∧
      (RegName.ofNumber 0x3A1 = some (.sym 161) ∧ RegName.sym 161 ≠ .cmd ∧ (RegName.sym 161).readWrite = false) := by
  refine ⟨rfl, rfl, ?_⟩
  decide +kernel

theorem witness_HostReadReturnsTheValue :
    (pending (.read 0x002) v10).inputs = .read 0x002 :: [] ∧ (pending (.read 0x002) v10).busy = false ∧
      RegName.ofNumber 0x002 = some .pwr ∧ regValue (pending (.read 0x002) v10) .pwr = some 37 :=
  ⟨rfl, rfl, by decide +kernel, rfl⟩

/-- Each clause: an element without a value, `CMD`, the first reserved number and the first one after `SYM`. -/
theorem witness_HostReadOfNoValueFitsTheWidth :
    (pending (.read 0x3A1) blank).inputs = .read 0x3A1 :: [] ∧ (pending (.read 0x3A1) blank).busy = false ∧
      RegName.ofNumber 0x3A1 = some (.sym 161) ∧ RegName.sym 161 ≠ .cmd ∧
      regValue (pending (.read 0x3A1) blank) (.sym 161) = none ∧
      ((pending (.read 0x000) blank).inputs = .read 0x000 :: [] ∧ (pending (.read 0x000) blank).busy = false) ∧
      ((pending (.read 0x007) blank).inputs = .read 0x007 :: [] ∧ RegName.ofNumber 0x007 = none) ∧
      ((pending (.read 0x3A2) blank).inputs = .read 0x3A2 :: [] ∧ RegName.ofNumber 0x3A2 = none) :=
  ⟨rfl, rfl, by decide +kernel, by decide, by decide +kernel, ⟨rfl, rfl⟩, ⟨rfl, by decide +kernel⟩, rfl,
    by decide +kernel⟩

theorem witness_ResetLeavesNoValue :
    (pending .reset halted).inputs = .reset :: [] ∧ (pending .reset halted).busy = false := ⟨rfl, rfl⟩

/-- Each clause: nothing written; and all of `PACK`'s operands written but the last byte of a 16-byte callsign. -/
theorem witness_UnwrittenOperandIsNotReady :
    (blank.pwr = none ∧ blank.clen = none ∧ blank.grid[(3 : Fin 4)] = none ∧ blank.msg[(6 : Fin 7)] = none ∧
        blank.fec[(161 : Fin 162)] = none ∧ blank.ilv[(161 : Fin 162)] = none ∧ blank.brv = none ∧ blank.a = none ∧
        blank.b = none ∧ blank.c = none ∧ blank.drvop = none ∧ blank.band = none ∧ blank.offs = none ∧
        blank.corr = none) ∧
      (let s := { v10 with clen := some 16, call := callRegs (List.replicate 15 0x41) }
       s.pwr ≠ none ∧ s.clen = some 16 ∧ (15 : Fin 16).val < (16 : Byte).toNat ∧ s.call[(15 : Fin 16)] = none) := by
  decide +kernel

/-- A failed operation that is neither a half-way `TONE` nor a bus failure; and one of `TONE` itself. -/
theorem witness_FailureChangesOnlyErr :
    (exec .conv blank = .next (after .conv blank) ∧ (after .conv blank).err = .notReady) ∧
      (exec (.tone 0 0) (toneState 0x15 1 0 []) = .next (after (.tone 0 0) (toneState 0x15 1 0 [])) ∧
        (after (.tone 0 0) (toneState 0x15 1 0 [])).err = .unsupportedBand) :=
  ⟨⟨exec_after _ _, by decide +kernel⟩, exec_after _ _, by decide +kernel⟩

theorem witness_EachOperationRaisesOnlyItsErrors :
    (Instr.tone 2 1).wf = true ∧
      exec (.tone 2 1) (toneState 0x15 1 0 []) = .next (after (.tone 2 1) (toneState 0x15 1 0 [])) :=
  ⟨rfl, exec_after _ _⟩

theorem witness_EveryOperationEnds : blank.busy = false := rfl

/-- The operands of V10 are those of `PACK`. -/
theorem packReads_v10 : packReads v10 37 5 k1abc fn42 := by
  refine ⟨rfl, rfl, by decide +kernel, rfl⟩

/-- V10's callsign passes its tests. -/
theorem callsignReads_k1abc : callsignReads 5 k1abc #v[36, 20, 1, 10, 11, 12] :=
  ⟨⟨[0x20, 0x4B, 0x31, 0x41, 0x42, 0x43], by decide, by decide⟩, by decide, by decide, by decide⟩

theorem witness_PackWritesTheMessage :
    packReads v10 37 5 k1abc fn42 ∧ powerOk (37 : Byte).toNat ∧ callsignReads 5 k1abc #v[36, 20, 1, 10, 11, 12] ∧
      locatorLegal fn42 := ⟨packReads_v10, by decide, callsignReads_k1abc, by decide⟩

theorem witness_EncodeCompletes :
    packReads v10 37 5 k1abc fn42 ∧ powerOk (37 : Byte).toNat ∧ callsignReads 5 k1abc #v[36, 20, 1, 10, 11, 12] ∧
      locatorLegal fn42 := witness_PackWritesTheMessage

/-- The clauses in order: power 61; `"ABCD"`; `"K1AB!"`; `"K1A2C"` and the seven characters of `"VK2ABCD"`;
locators just outside each bound. -/
theorem witness_PackReportsTheFirstFailingTest :
    packReads v10 37 5 k1abc fn42 ∧ ¬ powerOk (61 : Byte).toNat ∧ powerOk (60 : Byte).toNat ∧
      normalizeCallsign (4 : Byte).toNat [0x41, 0x42, 0x43, 0x44] = none ∧
      normalizeCallsign (5 : Byte).toNat [0x4B, 0x31, 0x41, 0x42, 0x21] =
        some [0x20, 0x4B, 0x31, 0x41, 0x42, 0x21] ∧ cval 0x21 = none ∧
      normalizeCallsign (5 : Byte).toNat [0x4B, 0x31, 0x41, 0x32, 0x43] =
        some [0x20, 0x4B, 0x31, 0x41, 0x32, 0x43] ∧
      ([0x20, 0x4B, 0x31, 0x41, 0x32, 0x43] : List Byte).map cval = [36, 20, 1, 10, 2, 12].map some ∧
      ([36, 20, 1, 10, 2, 12] : List Nat).getD 4 0 < 10 ∧
      normalizeCallsign (7 : Byte).toNat [0x56, 0x4B, 0x32, 0x41, 0x42, 0x43, 0x44] =
        some [0x56, 0x4B, 0x32, 0x41, 0x42, 0x43, 0x44] ∧
      ([0x56, 0x4B, 0x32, 0x41, 0x42, 0x43, 0x44] : List Byte).map cval = [31, 20, 2, 10, 11, 12, 13].map some ∧
      callsignReads 5 k1abc #v[36, 20, 1, 10, 11, 12] ∧ ¬ locatorLegal #v[0x53, 0x41, 0x30, 0x30] ∧
      ¬ locatorLegal #v[0x41, 0x40, 0x30, 0x30] ∧ ¬ locatorLegal #v[0x41, 0x41, 0x3A, 0x30] ∧
      ¬ locatorLegal #v[0x41, 0x41, 0x30, 0x2F] :=
  ⟨packReads_v10, by decide, by decide, by decide, by decide, by decide, by decide, by decide, by decide, by decide,
    by decide, callsignReads_k1abc, by decide, by decide, by decide, by decide⟩

/-- The clauses in order, on one-byte-per-clause callsigns: `CLEN = 17`, then `CLEN` at most 16 with the digit at
index 2 (`"AB1"`), 1 (`"K1"`), 0 (`"5"`) and nowhere (`"ABC1"`). -/
theorem witness_NormalizeFindsTheDigit :
    16 < 17 ∧ 16 ≤ 16 ∧ (([0x41, 0x42, 0x31] : List Byte)[2]? = some 0x31 ∧ 0x30 ≤ (0x31 : Byte) ∧ (0x31 : Byte) ≤ 0x39) ∧
      (([0x4B, 0x31] : List Byte)[2]? = none ∧ ([0x4B, 0x31] : List Byte)[1]? = some 0x31) ∧
      (([0x35] : List Byte)[1]? = none ∧ ([0x35] : List Byte)[0]? = some 0x35 ∧ 0x30 ≤ (0x35 : Byte) ∧ (0x35 : Byte) ≤ 0x39) ∧
      ¬ (0x41 : Byte) ≤ 0x39 ∧ ¬ (0x42 : Byte) ≤ 0x39 ∧ ¬ (0x43 : Byte) ≤ 0x39 := by decide

/-- The largest callsign code, `"  9"`, and the largest locator code and power. -/
theorem witness_PackedCodesFit :
    callsignReads 3 [0x20, 0x20, 0x39] #v[36, 36, 9, 36, 36, 36] ∧
      callsignNumber #v[36, 36, 9, 36, 36, 36] = 262374389 ∧ locatorLegal #v[0x41, 0x52, 0x30, 0x39] ∧
      gridNumber #v[0x41, 0x52, 0x30, 0x39] = 32399 ∧ locatorLegal #v[0x52, 0x41, 0x39, 0x30] ∧
      gridNumber #v[0x52, 0x41, 0x39, 0x30] = 0 ∧ powerOk 60 ∧ powerOk 0 :=
  ⟨⟨⟨[0x20, 0x20, 0x39, 0x20, 0x20, 0x20], by decide, by decide⟩, by decide, by decide, by decide⟩, by decide, by decide,
    by decide, by decide, by decide, by decide, by decide⟩

theorem witness_ConvIsTheTapCode :
    ({ blank with msg := v10Msg.map some } : State).msg = v10Msg.map some := rfl

theorem witness_ConvIsLinear :
    ({ blank with msg := v10Msg.map some } : State).msg = v10Msg.map some ∧
      ({ blank with msg := (Vector.replicate 7 0xFF).map some } : State).msg = (Vector.replicate 7 0xFF).map some ∧
      ({ blank with msg := (Vector.zipWith (· ^^^ ·) v10Msg (Vector.replicate 7 0xFF)).map some } : State).msg =
        (Vector.zipWith (· ^^^ ·) v10Msg (Vector.replicate 7 0xFF)).map some := ⟨rfl, rfl, rfl⟩

theorem witness_BrevReversesBrv :
    blank.brv = none ∧ ({ blank with brv := some 0x01 } : State).brv = some 0x01 := ⟨rfl, rfl⟩

theorem witness_IlvPermutesTheStream :
    blank.fec[(0 : Fin 162)] = none ∧
      ({ blank with fec := bits v10Fec } : State).fec = bits v10Fec :=
  ⟨by decide +kernel, rfl⟩

theorem witness_MergeFormsTheSymbols :
    blank.ilv[(0 : Fin 162)] = none ∧
      ({ blank with ilv := bits v10Ilv } : State).ilv = bits v10Ilv :=
  ⟨by decide +kernel, rfl⟩

/-- Both clauses: V10 succeeds, power 61 fails. -/
theorem witness_EncodeEqualsTheSequence :
    (exec .pack v10 = .next (after .pack v10) ∧ (after .pack v10).err = .ok) ∧
      (exec .pack (packState 61 k1abc fn42) = .next (after .pack (packState 61 k1abc fn42)) ∧
        (after .pack (packState 61 k1abc fn42)).err ≠ .ok) :=
  ⟨⟨exec_after _ _, by decide +kernel⟩, exec_after _ _, by decide +kernel⟩

/-- Two states with the operands of V10 that differ in an old interleaved array and an unread callsign byte. -/
theorem witness_EncodeDependsOnOperandsAlone :
    let s2 := { v10 with ilv := bits v10Fec, call := v10.call.set 5 (some 0x5A) }
    v10.cfg.sync = s2.cfg.sync ∧ v10.pwr = s2.pwr ∧ v10.clen = s2.clen ∧ v10.grid = s2.grid ∧
      (∀ n, v10.clen = some n → ∀ k : Fin 16, k.val < n.toNat → v10.call[k] = s2.call[k]) ∧
      exec .encode v10 = .next (after .encode v10) ∧ exec .encode s2 = .next (after .encode s2) ∧
      (after .encode v10).err = .ok := by
  refine ⟨rfl, rfl, rfl, rfl, ?_, exec_after _ _, exec_after _ _, by decide +kernel⟩
  intro n hn
  obtain rfl : 5 = n := by simpa [v10, packState, k1abc] using hn
  decide +kernel

/-- Smallest and largest `a`, largest `b` and `c`. -/
theorem witness_PllcfgWritesTheImage :
    (∀ s ∈ [ratioState 15 0 1 (completes 8), ratioState 90 0xFFFFF 0xFFFFF (completes 8)],
      s.cfg.par.raw.pllBase[(1 : Bit).toNat]? = some 34 ∧ s.busReplies = (List.replicate 8 0).map .done ++ []) ∧
      ratioLegal 15 90 15 0 1 ∧ fieldP1 15 0 1 < 2 ^ 18 ∧
      ratioLegal 15 90 90 0xFFFFF 0xFFFFF ∧ fieldP1 90 0xFFFFF 0xFFFFF < 2 ^ 18 := by
  refine ⟨?_, by decide +kernel, by decide, by decide +kernel, by decide⟩
  simp only [List.mem_cons, List.not_mem_nil, or_false, forall_eq_or_imp, forall_eq]
  exact ⟨⟨by decide +kernel, rfl⟩, by decide +kernel, rfl⟩

theorem witness_MscfgWritesTheImage :
    (ratioState 4 2047 1 (completes 8)).cfg.par.raw.msBase[(2 : BitVec 2).toNat]? = some 58 ∧
      ratioLegal 4 2048 4 2047 1 ∧ fieldP1 4 2047 1 < 2 ^ 18 ∧ ratioLegal 4 2048 2048 0xFFFFE 0xFFFFF ∧
      fieldP1 2048 0xFFFFE 0xFFFFF < 2 ^ 18 ∧
      (ratioState 4 2047 1 (completes 8)).busReplies = (List.replicate 8 0).map .done ++ [] :=
  ⟨by decide +kernel, by decide +kernel, by decide, by decide +kernel, by decide, rfl⟩

/-- Each clause at its boundary: `a` just outside either range, `c = 0`, `c` and `b` above `0xFFFFF`; the smallest
`P1` that does not fit. -/
theorem witness_DividerErrorsWriteNothing :
    (ratioState 14 0 1 []).a = some (BitVec.ofNat 32 14) ∧ ¬ ratioLegal 15 90 14 0 1 ∧ ¬ ratioLegal 15 90 91 0 1 ∧
      ¬ ratioLegal 15 90 28 0 0 ∧ ¬ ratioLegal 15 90 28 0 0x100000 ∧ ¬ ratioLegal 15 90 28 0x100000 1 ∧
      ¬ ratioLegal 4 2048 3 0 1 ∧ ¬ ratioLegal 4 2048 2049 0 1 ∧
      (ratioLegal 15 90 90 1962 1 ∧ 2 ^ 18 ≤ fieldP1 90 1962 1) ∧
      (ratioLegal 4 2048 4 2048 1 ∧ 2 ^ 18 ≤ fieldP1 4 2048 1) ∧ (2 : BitVec 2) ≠ 3 ∧
      (ratioLegal 4 2048 2048 0xFFFFE 0xFFFFF ∧ 0xFFFFE < 0xFFFFF) := by
  decide +kernel

/-- A failure of the first and of the last write, for either operation. -/
theorem witness_BusFaultKeepsTheWritesMade :
    (ratioState 28 0 500 (completes 0 ++ [.failed])).busReplies = ([] : List Byte).map .done ++ .failed :: [] ∧
      (ratioState 28 0 500 (completes 7 ++ [.failed])).busReplies = (List.replicate 7 0).map .done ++ .failed :: [] ∧
      fieldP1 28 0 500 < 2 ^ 18 ∧ ratioLegal 15 90 28 0 500 ∧ ratioLegal 4 2048 28 0 500 ∧
      testConfig.par.raw.pllBase[(0 : Bit).toNat]? = some 26 ∧
      testConfig.par.raw.msBase[(0 : BitVec 2).toNat]? = some 42 :=
  ⟨rfl, rfl, by decide, by decide +kernel, by decide +kernel, by decide +kernel,
    by decide +kernel⟩

theorem witness_DividerFieldsFit :
    ratioLegal 4 2048 4 0 1 ∧ ratioLegal 4 2048 2048 0xFFFFF 1 ∧ (ratioLegal 4 2048 2048 0xFFFFE 0xFFFFF ∧
      0xFFFFE < 0xFFFFF) := by decide +kernel

/-- The operand written or not; the three answers of the bus. -/
theorem witness_DrvcfgKeepsTheEnableBit :
    testConfig.par.raw.clkCtrl[(2 : BitVec 2).toNat]? = some 18 ∧ blank.drvop = none ∧
      (∀ replies ∈ [[.done 0x80, .done 0], [.failed], [.done 0x80, .failed]],
        ({ blank with drvop := some 0x4F, busReplies := replies } : State).drvop = some 0x4F ∧
          ({ blank with drvop := some 0x4F, busReplies := replies } : State).busReplies = replies) :=
  ⟨by decide +kernel, rfl, fun _ _ => ⟨rfl, rfl⟩⟩

/-- V25's first and thirteenth rows: an ordinary numerator and the largest `P1` that fits. -/
theorem witness_ToneWritesBothImages :
    testConfig.par.raw.msBase[(0 : BitVec 2).toNat]? = some 42 ∧ testConfig.par.raw.pllBase[(1 : Bit).toNat]? = some 34 ∧
      (0x14, ⟨28, 200052, 1023890, 50, 256 / 375⟩) ∈ testConfig.par.raw.bandTab ∧
      ((201076 : Nat) : Int) = (200052 : Nat) + roundHz ((hzOf testConfig 1 + hzOf testConfig 0) * (256 / 375)) ∧
      fieldP1 28 201076 1023890 < 2 ^ 18 ∧ (0x50, ⟨90, 0, 1, 4, 1⟩) ∈ testConfig.par.raw.bandTab ∧
      ((1961 : Nat) : Int) = (0 : Nat) + roundHz ((hzOf testConfig 3 + hzOf testConfig 0) * 1) ∧
      fieldP1 90 1961 1 < 2 ^ 18 ∧
      (toneState 0x14 1 0 (completes 16)).busReplies = (List.replicate 16 0).map .done ++ [] :=
  ⟨by decide +kernel, by decide +kernel, by decide +kernel, by decide +kernel, by decide, by decide +kernel,
    by decide +kernel, by decide, rfl⟩

/-- V25: a numerator below 0, one above `0xFFFFF`, and the smallest `P1` that does not fit. -/
theorem witness_ToneFailsHalfWay :
    ((200052 : Nat) + roundHz ((hzOf testConfig 0 + hzOf testConfig 2) * (256 / 375)) : Int) = -4748 ∧
      ((200052 : Nat) + roundHz ((hzOf testConfig 5 + hzOf testConfig 0) * (256 / 375)) : Int) = 1087519 ∧
      ((0 : Nat) + roundHz ((hzOf testConfig 4 + hzOf testConfig 0) * 1) : Int) = 1962 ∧
      2 ^ 18 ≤ fieldP1 90 (1962 : Int).toNat 1 ∧ (0x50, ⟨90, 0, 1, 4, 1⟩) ∈ testConfig.par.raw.bandTab ∧
      (0x14, ⟨28, 200052, 1023890, 50, 256 / 375⟩) ∈ testConfig.par.raw.bandTab ∧
      testConfig.par.raw.msBase[(2 : BitVec 2).toNat]? = some 58 ∧
      (toneState 0x50 4 0 (completes 8)).busReplies = (List.replicate 8 0).map .done ++ [] :=
  ⟨by decide +kernel, by decide +kernel, by decide +kernel, by decide, by decide +kernel, by decide +kernel,
    by decide +kernel, rfl⟩

theorem witness_ToneUnsupportedBand :
    (2 : BitVec 2) ≠ 3 ∧ (toneState 0x15 1 0 []).band = some 0x15 ∧ (toneState 0x15 1 0 []).offs = some 1 ∧
      (toneState 0x15 1 0 []).corr = some 0 ∧
      ∀ e, ((0x15 : Byte), e) ∉ (toneState 0x15 1 0 []).cfg.par.raw.bandTab := by
  refine ⟨by decide, rfl, rfl, rfl, fun e h => ?_⟩
  have h : (0x15 : Byte) ∈ (toneState 0x15 1 0 []).cfg.par.raw.bandTab.map Prod.fst :=
    List.mem_map_of_mem (f := Prod.fst) h
  have h2 : (0x15 : Byte) ∉ (toneState 0x15 1 0 []).cfg.par.raw.bandTab.map Prod.fst := by decide +kernel
  exact h2 h

/-- A failure of the first, the eighth, the ninth and the sixteenth write; the numerator is V25's first row. -/
theorem witness_ToneBusFaults :
    (∀ n : Fin 16, (toneState 0x14 1 0 (completes n ++ [.failed])).busReplies =
        (List.replicate n.val 0).map .done ++ .failed :: []) ∧
      (List.replicate 0 (0 : Byte)).length < 8 ∧ (List.replicate 7 (0 : Byte)).length < 8 ∧
      8 ≤ (List.replicate 8 (0 : Byte)).length ∧ (List.replicate 15 (0 : Byte)).length < 16 ∧
      ((201076 : Nat) : Int) = (200052 : Nat) + roundHz ((hzOf testConfig 1 + hzOf testConfig 0) * (256 / 375)) ∧
      fieldP1 28 201076 1023890 < 2 ^ 18 :=
  ⟨fun _ => rfl, by decide, by decide, by decide, by decide, by decide +kernel, by decide⟩

theorem witness_FrequencyFormula :
    (((⟨28, 1, 2⟩ : Ratio).c ≠ 0 ∧ (⟨6, 1, 3⟩ : Ratio).c ≠ 0) ∧ 6 * 3 + 1 ≠ 0) ∧
      ((⟨28, 1, 0⟩ : Ratio).c = 0 ∧ (⟨0, 0, 1⟩ : Ratio).a * 1 + 0 = 0) := by decide

/-- A good state in front of a command that writes eight bytes to the bus. -/
def running : State := { ratioState 28 0 500 (completes 8) with inputs := [.write 0x000 0x80] }

theorem step_running : step running = .next (after (.pllcfg 0) (setBusy (setInputs [] running))) := by
  rw [step_act (rest := []) (input := .write 0x000 0x80) rfl, act_write rfl, hostWrite_cmd,
    command_exec (i := .pllcfg 0) (by decide) (by decide +kernel)]
  exact exec_after _ _

theorem blockInv_running : BlockInv running where
  idle := rfl
  offs := by intro x h; cases h
  corr := by intro x h; cases h
  pack := .inl ⟨rfl, rfl, rfl⟩
  conv := rfl
  sym := by
    intro i x h
    have hn : ∀ i : Fin 162, running.sym[i] = none := by decide +kernel
    rw [hn i] at h
    cases h
  image := .inl ⟨rfl, rfl, rfl, rfl, rfl⟩
  bus := by intro e h; cases h

theorem witness_StepKeepsTheInvariant :
    BlockInv running ∧ step running = .next (after (.pllcfg 0) (setBusy (setInputs [] running))) :=
  ⟨blockInv_running, step_running⟩

theorem witness_NeverTouchesRegistersAbove200 :
    step running = .next (after (.pllcfg 0) (setBusy (setInputs [] running))) ∧
      BusEvent.write 33 0 ∈ (after (.pllcfg 0) (setBusy (setInputs [] running))).busLog :=
  ⟨step_running, by decide +kernel⟩

theorem witness_BusHistoryOnlyGrows :
    step running = .next (after (.pllcfg 0) (setBusy (setInputs [] running))) ∧
      ∀ rest, running.inputs ≠ .reset :: rest := ⟨step_running, by simp [running]⟩

theorem witness_WrittenStaysWritten :
    step running = .next (after (.pllcfg 0) (setBusy (setInputs [] running))) ∧
      (∀ rest, running.inputs ≠ .reset :: rest) ∧ regValue running .a ≠ none :=
  ⟨step_running, by simp [running], by decide⟩

theorem witness_ConfigurationNeverChanges :
    step running = .next (after (.pllcfg 0) (setBusy (setInputs [] running))) := step_running

theorem witness_UnitsShareNoRegister :
    (exec .encode v10 = .next (after .encode v10) ∧ isEnc .encode = true) ∧
      (exec (.tone 0 0) (toneState 0x14 1 0 []) = .next (after (.tone 0 0) (toneState 0x14 1 0 [])) ∧
        isEnc (.tone 0 0) = false) := ⟨⟨exec_after _ _, rfl⟩, exec_after _ _, rfl⟩

theorem witness_OperandRegistersAreNeverWritten : exec .encode v10 = .next (after .encode v10) := exec_after _ _

theorem witness_UnitsCommute : isEnc .encode = true ∧ isEnc (.tone 2 1) = false := ⟨rfl, rfl⟩

theorem witness_ValidFlagsAfterSuccess :
    (exec .pack v10 = .next (after .pack v10) ∧ (after .pack v10).err = .ok) ∧
      (after .conv { blank with msg := v10Msg.map some }).err = .ok ∧
      (after .ilv { blank with fec := bits v10Fec }).err = .ok ∧
      (after .merge { blank with ilv := bits v10Ilv }).err = .ok ∧
      (after (.pllcfg 0) (ratioState 28 0 500 (completes 8))).err = .ok ∧
      (after (.mscfg 0) (ratioState 28 0 500 (completes 8))).err = .ok ∧
      (after (.tone 0 0) (toneState 0x14 1 0 (completes 16))).err = .ok :=
  ⟨⟨exec_after _ _, by decide +kernel⟩, by decide +kernel, by decide +kernel, by decide +kernel, by decide +kernel,
    by decide +kernel, by decide +kernel⟩

/-- The last byte of the callsign, the last of the locator, `PWR` and `CLEN`. -/
theorem witness_StalenessIsNotTracked :
    (pending (.write (RegName.call 15).number 0x41) v10).inputs = .write (RegName.call 15).number 0x41 :: [] ∧
      (pending (.write (RegName.call 15).number 0x41) v10).busy = false ∧
      step (pending (.write (RegName.call 15).number 0x41) v10) =
        .next (writeReg (.call 15) 0x41 (setInputs [] v10)) ∧
      step (pending (.write (RegName.grid 3).number 0x39) v10) =
        .next (writeReg (.grid 3) 0x39 (setInputs [] v10)) ∧
      step (pending (.write RegName.pwr.number 0) v10) = .next (writeReg .pwr 0 (setInputs [] v10)) ∧
      step (pending (.write RegName.clen.number 0) v10) = .next (writeReg .clen 0 (setInputs [] v10)) := by
  refine ⟨rfl, rfl, ?_, ?_, ?_, ?_⟩
  · exact hostWrite_reg (n := (RegName.call 15).number) (r := .call 15) (by decide +kernel) (by decide) 0x41 _
  · exact hostWrite_reg (n := (RegName.grid 3).number) (r := .grid 3) (by decide +kernel) (by decide) 0x39 _
  · exact hostWrite_reg (n := RegName.pwr.number) (r := .pwr) (by decide +kernel) (by decide) 0 _
  · exact hostWrite_reg (n := RegName.clen.number) (r := .clen) (by decide +kernel) (by decide) 0 _

end Tests
end Sys2Proof
end

section
/-! PROOFS. The scope's mathematical conventions (00_scope.md section 4): `round`. -/

namespace Sys2Proof
namespace Machine

/-- What `round` can answer: the floor when the fractional part is at most one half, the next integer when it is at
least one half. At exactly one half both are possible, and the free tie picks one (assumption log 4). -/
theorem roundHz_cases (x : Rat) :
    (roundHz x = x.floor ∧ x - x.floor ≤ 1 / 2) ∨ (roundHz x = x.floor + 1 ∧ 1 / 2 ≤ x - x.floor) := by
  dsimp only [roundHz]
  split_ifs with hlow hhigh htie
  · exact .inl ⟨rfl, hlow.le⟩
  · exact .inr ⟨rfl, hhigh.le⟩
  · exact .inr ⟨rfl, not_lt.mp hlow⟩
  · exact .inl ⟨rfl, not_lt.mp hhigh⟩

theorem abs_roundHz_sub_le (x : Rat) : |(roundHz x : Rat) - x| ≤ 1 / 2 := by
  have floor_le : (x.floor : Rat) ≤ x := Int.floor_le x
  have lt_succ_floor : x < x.floor + 1 := Int.lt_floor_add_one x
  rw [abs_le]
  obtain ⟨hround, hfract⟩ | ⟨hround, hfract⟩ := roundHz_cases x
  · rw [hround]
    constructor <;> linarith
  · rw [hround, Int.cast_add, Int.cast_one]
    constructor <;> linarith

/-- Two integers at most one half apart are equal, so the bound alone fixes `round` on the integers (R6). -/
@[simp] theorem roundHz_intCast (n : Int) : roundHz n = n := by
  have hclose : |(roundHz n : Rat) - n| < 1 := (abs_roundHz_sub_le n).trans_lt one_half_lt_one
  have hzero : roundHz n - n = 0 := Int.abs_lt_one_iff.mp (by exact_mod_cast hclose)
  exact sub_eq_zero.mp hzero

/-- Settles O43: the bound from the two values `round` can have, and the integers from the bound. -/
theorem roundIsWithinOneHalf : Obligations.RoundIsWithinOneHalf :=
  ⟨abs_roundHz_sub_le, roundHz_intCast⟩

end Machine
end Sys2Proof
end

section
/-! PROOFS. The invariant of the block (10_state.md R36): each update of the state keeps it, so every step does. -/

namespace Sys2Proof
namespace Machine

open Sys2Proof.Safety

/-! ### Bounds of the packed codes (40_source_coding.md R92 to R98) -/

theorem cval_le {c : Byte} {v : Nat} (h : cval c = some v) : v ≤ 36 := by
  unfold cval at h
  split_ifs at h with hd hl
  · simp only [isDigit, decide_eq_true_eq, Option.some.injEq] at hd h
    omega
  · simp only [isLetter, decide_eq_true_eq, Option.some.injEq] at hl h
    omega
  · cases h
    exact le_rfl

theorem cval_le_of_isDigit {c : Byte} {v : Nat} (hd : isDigit c = true) (h : cval c = some v) : v ≤ 9 := by
  rw [cval, if_pos hd, Option.some.injEq] at h
  simp only [isDigit, decide_eq_true_eq] at hd
  omega

theorem digitAtTwo_iff {s : List Byte} : digitAtTwo s = true ↔ ∃ c, s[2]? = some c ∧ isDigit c = true := by
  unfold digitAtTwo
  split <;> simp [*]

/-- The first loop of `normalize` stops only where it has found its digit (R92). -/
theorem digitAtTwo_of_padLeft {left : Nat} {s u : List Byte} (h : padLeft left s = some u) : digitAtTwo u = true := by
  induction left generalizing s with
  | zero =>
    unfold padLeft at h
    split_ifs at h with hd
    cases h
    exact hd
  | succ left ih =>
    unfold padLeft at h
    split_ifs at h with hd
    · cases h
      exact hd
    · exact ih h

theorem digitAtTwo_padRight {s : List Byte} (h : digitAtTwo s = true) : digitAtTwo (padRight s) = true := by
  obtain ⟨c, hc, hd⟩ := digitAtTwo_iff.mp h
  have hlt : 2 < s.length := (List.getElem?_eq_some_iff.mp hc).1
  exact digitAtTwo_iff.mpr ⟨c, by rw [padRight, List.getElem?_append_left hlt, hc], hd⟩

theorem digitAtTwo_of_normalizeCallsign {clen : Nat} {s t : List Byte} (h : normalizeCallsign clen s = some t) :
    digitAtTwo t = true := by
  unfold normalizeCallsign at h
  split_ifs at h
  obtain ⟨u, hu, rfl⟩ := Option.map_eq_some_iff.mp h
  exact digitAtTwo_padRight (digitAtTwo_of_padLeft hu)

/-- The callsign part succeeds through its three tests: normalization, characters, length and suffix (R92 to R95). -/
theorem callsignValues_ok {clen : Nat} {call : List Byte} {v : List Nat} (h : callsignValues clen call = .ok v) :
    ∃ t, normalizeCallsign clen call = some t ∧ t.map cval = v.map some ∧ callsignShapeOk v = true := by
  unfold callsignValues at h
  split at h
  · cases h
  · next t ht =>
    split at h
    · cases h
    · next w hw =>
      split_ifs at h with hshape
      cases h
      exact ⟨t, ht, charValues_eq_some.mp hw, hshape⟩

theorem exists_six_of_callsignShapeOk {v : List Nat} (h : callsignShapeOk v = true) :
    ∃ a b c d e f, v = [a, b, c, d, e, f] ∧ 10 ≤ d ∧ 10 ≤ e ∧ 10 ≤ f := by
  simp only [callsignShapeOk, Bool.and_eq_true, beq_iff_eq, decide_eq_true_eq] at h
  obtain ⟨⟨⟨hlen, hd⟩, he⟩, hf⟩ := h
  match v, hlen with
  | [a, b, c, d, e, f], _ => exact ⟨a, b, c, d, e, f, rfl, hd, he, hf⟩

/-- Callsign values that passed the tests are six digits of the mixed-radix fold, each in its range (R96). -/
theorem callsignValues_bounds {clen : Nat} {call : List Byte} {v : List Nat} (h : callsignValues clen call = .ok v) :
    ∃ a b c d e f, v = [a, b, c, d, e, f] ∧ a ≤ 36 ∧ b ≤ 36 ∧ c ≤ 9 ∧
      (10 ≤ d ∧ d ≤ 36) ∧ (10 ≤ e ∧ e ≤ 36) ∧ (10 ≤ f ∧ f ≤ 36) := by
  obtain ⟨t, ht, hvalues, hshape⟩ := callsignValues_ok h
  obtain ⟨a, b, c, d, e, f, rfl, hd, he, hf⟩ := exists_six_of_callsignShapeOk hshape
  have value (k x : Nat) (hx : [a, b, c, d, e, f][k]? = some x) : ∃ ch, t[k]? = some ch ∧ cval ch = some x := by
    have hk : (t.map cval)[k]? = ([a, b, c, d, e, f].map some)[k]? := by rw [hvalues]
    rw [List.getElem?_map, List.getElem?_map, hx] at hk
    exact Option.map_eq_some_iff.mp hk
  have le (k x : Nat) (hx : [a, b, c, d, e, f][k]? = some x) : x ≤ 36 := by
    obtain ⟨ch, -, hch⟩ := value k x hx
    exact cval_le hch
  have hc : c ≤ 9 := by
    obtain ⟨ch, hat, hdigit⟩ := digitAtTwo_iff.mp (digitAtTwo_of_normalizeCallsign ht)
    obtain ⟨ch', hat', hch⟩ := value 2 c rfl
    cases hat.symm.trans hat'
    exact cval_le_of_isDigit hdigit hch
  exact ⟨a, b, c, d, e, f, rfl, le 0 a rfl, le 1 b rfl, hc, ⟨hd, le 3 d rfl⟩, ⟨he, le 4 e rfl⟩, hf, le 5 f rfl⟩

theorem callsignCode_lt {clen : Nat} {call : List Byte} {v : List Nat} (h : callsignValues clen call = .ok v) :
    callsignCode v < 262374390 := by
  obtain ⟨a, b, c, d, e, f, rfl, ha, hb, hc, hd, he, hf⟩ := callsignValues_bounds h
  simp only [callsignCode, List.foldl_cons, List.foldl_nil, List.getD_cons_zero, List.getD_cons_succ]
  omega

theorem gridCode_le {g : Vector Byte 4} (h : locatorOk g = true) : gridCode g ≤ 32399 := by
  simp only [locatorOk, isDigit, Bool.and_eq_true, decide_eq_true_eq] at h
  unfold gridCode
  omega

/-! ### The clauses of the invariant about the registers and the history -/

/-- The invariant without its clause on `BUSY`: what holds of the registers and the bus history also while an
operation runs. -/
structure DataInv (s : State) : Prop where
  offs : hzFits s s.offs
  corr : hzFits s s.corr
  pack : packOk s
  conv : s.r0 = s.r1
  sym : symOk s
  image : imageOk s
  bus : busOk s

theorem blockInv_iff (s : State) : BlockInv s ↔ s.busy = false ∧ DataInv s :=
  ⟨fun ⟨idle, offs, corr, pack, conv, sym, image, bus⟩ => ⟨idle, offs, corr, pack, conv, sym, image, bus⟩,
    fun ⟨idle, offs, corr, pack, conv, sym, image, bus⟩ => ⟨idle, offs, corr, pack, conv, sym, image, bus⟩⟩

theorem DataInv.endState {s : State} (h : DataInv s) (e : ErrCode) : BlockInv (endState e s) :=
  (blockInv_iff _).mpr ⟨rfl, { h with }⟩

theorem DataInv.setBusy {s : State} (h : DataInv s) : DataInv (setBusy s) := { h with }

theorem blockInv_setInputs {s : State} (h : BlockInv s) (rest : List Input) : BlockInv (setInputs rest s) := { h with }

theorem blockInv_hostRead {s : State} (h : BlockInv s) (n : BitVec 12) : BlockInv (hostRead n s) := { h with }

/-- With no element written the clauses on the registers hold, and with no event that on the history. -/
theorem blockInv_resetBlock (s : State) : BlockInv s.resetBlock where
  idle := rfl
  offs := by rintro x ⟨⟩
  corr := by rintro x ⟨⟩
  pack := .inl ⟨rfl, rfl, rfl⟩
  conv := rfl
  sym := by
    intro i x h
    simp [State.resetBlock] at h
  image := .inl ⟨rfl, rfl, rfl, rfl, rfl⟩
  bus := by rintro e ⟨⟩

/-! ### Host writes -/

/-- Only a write to `OFFS` changes it, and then to a pattern cut to the configured width (10_state.md R28). -/
theorem writeReg_offs_fits {s : State} (h : hzFits s s.offs) (r : RegName) (v : Nat) :
    hzFits s (writeReg r v s).offs := by
  cases r with
  | offs =>
    rintro x ⟨⟩
    exact Nat.mod_lt _ (Nat.two_pow_pos _)
  | _ => exact h

theorem writeReg_corr_fits {s : State} (h : hzFits s s.corr) (r : RegName) (v : Nat) :
    hzFits s (writeReg r v s).corr := by
  cases r with
  | corr =>
    rintro x ⟨⟩
    exact Nat.mod_lt _ (Nat.two_pow_pos _)
  | _ => exact h

theorem blockInv_writeReg {s : State} (h : BlockInv s) (r : RegName) (v : Nat) : BlockInv (writeReg r v s) := by
  obtain ⟨-, hbusy, hlog, hcfg, -⟩ := writeReg_others r v s
  obtain ⟨hcsc, hgrd, hlpc, hr0, hr1, hp1, hp2, hp3, hbase, himg, hsym⟩ := writeReg_results r v s
  constructor
  case idle => exact hbusy.trans h.idle
  case offs => simpa only [hzFits, hcfg] using writeReg_offs_fits h.offs r v
  case corr => simpa only [hzFits, hcfg] using writeReg_corr_fits h.corr r v
  case pack => simpa only [packOk, hcsc, hgrd, hlpc] using h.pack
  case conv => rw [hr0, hr1, h.conv]
  case sym => simpa only [symOk, hcfg, hsym] using h.sym
  case image => simpa only [imageOk, hcfg, hp1, hp2, hp3, hbase, himg] using h.image
  case bus => simpa only [busOk, hcfg, hlog] using h.bus

/-! ### The results of the ENC operations -/

/-- What `PACK` stores meets the bounds of R36: no register width cuts a code. -/
theorem packOk_of_packResult {o : PackOperands} {r : Packed} (hr : packResult o = .ok r) {t : State}
    (hcsc : t.csc = some r.csc) (hgrd : t.grd = some r.grd) (hlpc : t.lpc = some r.lpc) : packOk t := by
  obtain ⟨hpower, hloc, v, hv, rfl⟩ := packResult_ok hr
  have hcode := callsignCode_lt hv
  have hgrid := gridCode_le hloc
  have hp : o.pwr.toNat ≤ 60 := hpower.1
  have hexact : (BitVec.ofNat 15 (gridCode o.grid)).toNat = gridCode o.grid := by
    rw [BitVec.toNat_ofNat]; omega
  refine .inr ⟨_, _, _, o.pwr.toNat, hcsc, hgrd, hlpc, ?_, ?_, hpower, ?_⟩
  · simp only [assemble, BitVec.toNat_ofNat]
    omega
  · simp only [assemble, hexact, hgrid]
  · simp only [assemble, hexact, locatorPowerCode, BitVec.toNat_ofNat]
    omega

/-- The symbols `MERGE` forms carry their sync bits (42_interleaver_sync_merge.md R128). -/
theorem symOk_of_merge {t : State} {ilv : Vector Bit 162} (h : t.sym = (merge t.cfg.sync ilv).map some) :
    symOk t := by
  intro i x hx
  rw [h] at hx
  simp only [merge, Fin.getElem_fin, Vector.getElem_map, Vector.getElem_ofFn, Option.some.injEq] at hx
  rw [← hx]
  exact (symbolOf_bits _ _).1

/-! ### The results of the SYN operations -/

/-- A configured image range ends below 200 (20_memory.md R46). -/
theorem imageBase_add_seven_lt {cfg : Config} {b : Nat} (h : b ∈ cfg.par.raw.imageBases) : b + 7 < 200 :=
  cfg.par.ok.1 b h

theorem ctrlReg_lt {cfg : Config} {r : Nat} (h : r ∈ cfg.par.raw.ctrlRegs) : r < 200 :=
  cfg.par.ok.2.2.1 r h

/-- The writes of an image go to the eight registers from its base on (43_synth_dividers.md R145). -/
theorem eventOk_of_imageWrites {cfg : Config} {base : Byte} (hbase : base.toNat ∈ cfg.par.raw.imageBases)
    {img : Vector Byte 8} {w : Byte × Byte} (hw : w ∈ imageWrites base img) : eventOk cfg (.write w.1 w.2) := by
  obtain ⟨k, -, rfl⟩ := List.mem_map.mp hw
  have hlt := imageBase_add_seven_lt hbase
  have haddr : (base + BitVec.ofNat 8 k.val).toNat = base.toNat + k.val := by
    rw [BitVec.toNat_add, BitVec.toNat_ofNat]
    omega
  have hceil : base.toNat + k.val < Config.regCeil := show _ < 200 by omega
  refine ⟨.inl ⟨base.toNat, hbase, ?_, ?_⟩, ?_⟩ <;> rw [haddr]
  · omega
  · omega
  · exact hceil

/-- Reading and writing back a control register stays inside the configured registers (44_synth_driver_tone.md R161). -/
theorem eventOk_ctrlReg {cfg : Config} {reg : Byte} (hreg : reg.toNat ∈ cfg.par.raw.ctrlRegs) (v : Byte) :
    eventOk cfg (.read reg v) ∧ eventOk cfg (.write reg v) :=
  ⟨⟨hreg, ctrlReg_lt hreg⟩, .inr hreg, ctrlReg_lt hreg⟩

theorem DataInv.busAdvance {s : State} (h : DataInv s) {events : List BusEvent} (hev : ∀ e ∈ events, eventOk s.cfg e)
    (n : Nat) : DataInv (busAdvance events n s) :=
  { h with bus := fun e he => (List.mem_append.mp he).elim (h.bus e) (hev e) }

theorem DataInv.imageWritten {s : State} (h : DataInv s) {base : Byte} (p1 : BitVec 18) {p2 p3 : BitVec 20}
    (hbase : base.toNat ∈ s.cfg.par.raw.imageBases) (hp : p2.toNat < p3.toNat) (k n : Nat) :
    DataInv (imageWritten base p1 p2 p3 k n s) := by
  have hstored : DataInv (storeImage base p1 p2 p3 s) :=
    { h with image := .inr ⟨p1, p2, p3, base, rfl, rfl, rfl, rfl, rfl, hp, hbase⟩ }
  refine hstored.busAdvance (fun e he => ?_) n
  obtain ⟨w, hw, rfl⟩ := List.mem_map.mp he
  exact eventOk_of_imageWrites hbase (List.mem_of_mem_take hw)

/-! ### Every step keeps the invariant -/

/-- Every operation ends in a good state, whichever of its effects it has. -/
theorem Effect.blockInv {i : Instr} {s t : State} (heff : Effect i s t) (h : DataInv s) : BlockInv t := by
  cases heff with
  | failed e => exact h.endState e
  | packed o r _ hr =>
    refine DataInv.endState ?_ _
    exact { h with pack := packOk_of_packResult hr rfl rfl rfl }
  | coded m =>
    refine DataInv.endState ?_ _
    exact { h with conv := congrArg some (convolve_registers m) }
  | interleaved =>
    refine DataInv.endState ?_ _
    exact { h with }
  | merged ilv =>
    refine DataInv.endState ?_ _
    exact { h with sym := symOk_of_merge rfl }
  | encoded o r ilv _ hr =>
    refine DataInv.endState ?_ _
    exact { h with
      pack := packOk_of_packResult hr rfl rfl rfl
      conv := congrArg some (convolve_registers r.msg)
      sym := symOk_of_merge rfl }
  | reversed =>
    refine DataInv.endState ?_ _
    exact { h with }
  | image base p1 p2 p3 k n e _ hbase hp => exact (h.imageWritten p1 hbase hp k n).endState e
  | driver reg d events n e old _ hreg _ hev =>
    refine (h.busAdvance (fun ev hmem => ?_) n).endState e
    rcases hev with rfl | rfl | rfl <;> simp only [List.mem_cons, List.not_mem_nil, or_false] at hmem
    · exact hmem ▸ (eventOk_ctrlReg hreg old).1
    · rcases hmem with rfl | rfl
      · exact (eventOk_ctrlReg hreg old).1
      · exact (eventOk_ctrlReg hreg _).2
  | toneHalf base p1 p2 p3 n e _ hbase hp => exact (h.imageWritten p1 hbase hp 8 n).endState e
  | tone base p1 p2 p3 n base' p1' p2' p3' k' n' e _ hbase hp hbase' hp' =>
    exact ((h.imageWritten p1 hbase hp 8 n).imageWritten p1' hbase' hp' k' n').endState e

/-- Settles O45, by the cases of a step: each of its updates keeps the invariant. -/
theorem stepKeepsTheInvariant : Obligations.StepKeepsTheInvariant := by
  intro s t h hstep
  rcases step_cases hstep with ⟨-, rfl⟩ | ⟨input, rest, -, -, hact⟩
  · exact h
  have hs : BlockInv (Machine.setInputs rest s) := blockInv_setInputs h rest
  have hrun : DataInv (Machine.setBusy (Machine.setInputs rest s)) := ((blockInv_iff _).mp hs).2.setBusy
  rcases hact with ⟨-, rfl⟩ | ⟨n, -, rfl⟩ | ⟨n, v, -, rfl | ⟨r, -, rfl⟩ | ⟨-, hill⟩ | ⟨i, -, hexec⟩⟩
  · exact blockInv_resetBlock _
  · exact blockInv_hostRead hs n
  · exact hs
  · exact blockInv_writeReg hs r v
  · rw [endWith_eq] at hill
    cases hill
    exact hrun.endState _
  · exact (effect_of_exec hexec).blockInv hrun

/-- Settles O46: the reset state is the block's reset of itself. -/
theorem resetMeetsTheInvariant : Obligations.ResetMeetsTheInvariant :=
  (congrArg BlockInv reset_resetBlock).mp (blockInv_resetBlock State.reset)

end Machine
end Sys2Proof
end

section
/-! PROOFS. The state's statements (10_state.md): what no step or operation changes, and what each leaves written. -/

namespace Sys2Proof
namespace Machine

/-! ### What an operation leaves unchanged (10_state.md R10, R11) -/

/-- Settles O52: no update an effect is made of (the lemmas of Laws/State and Laws/Updates) reaches these fields. -/
theorem operandRegistersAreNeverWritten : Obligations.OperandRegistersAreNeverWritten := by
  intro i s t h
  cases effect_of_exec h <;> simp

theorem cfg_of_exec {i : Instr} {s t : State} (h : exec i s = .next t) : t.cfg = s.cfg := by
  obtain ⟨-, -, -, -, -, -, -, -, -, -, -, hcfg, -⟩ := operandRegistersAreNeverWritten i s t h
  exact hcfg

/-- Settles O50, by the cases of a step. -/
theorem configurationNeverChanges : Obligations.ConfigurationNeverChanges := by
  intro s t hstep
  rcases step_cases hstep with ⟨-, rfl⟩ | ⟨input, rest, -, -, hact⟩
  · rfl
  rcases hact with ⟨-, rfl⟩ | ⟨n, -, rfl⟩ | ⟨n, v, -, rfl | ⟨r, -, rfl⟩ | ⟨-, hill⟩ | ⟨i, -, hexec⟩⟩
  · rfl
  · rfl
  · rfl
  · obtain ⟨-, -, -, hcfg, -⟩ := writeReg_others r v (setInputs rest s)
    exact hcfg
  · rw [endWith_eq] at hill
    cases hill
    rfl
  · simpa using cfg_of_exec hexec

/-! ### Written-bits (10_state.md R12) -/

/-- Every register that holds a value in `s` holds one in `t`. -/
def KeepsWritten (s t : State) : Prop := ∀ r : RegName, regValue s r ≠ none → regValue t r ≠ none

theorem regValue_status_ne_none (s : State) : regValue s .status ≠ none := nofun

theorem KeepsWritten.trans {s t u : State} (h : KeepsWritten s t) (h' : KeepsWritten t u) : KeepsWritten s u :=
  fun r hr => h' r (h r hr)

/-- An update that leaves every element's value keeps the written-bits, whatever becomes of `STATUS`. -/
theorem keepsWritten_of_eq {s t : State} (h : ∀ r, r ≠ .status → regValue t r = regValue s r) : KeepsWritten s t := by
  intro r hr
  by_cases hs : r = .status
  · subst hs
    exact regValue_status_ne_none t
  · exact (h r hs).symm ▸ hr

theorem keepsWritten_setInputs (rest : List Input) (s : State) : KeepsWritten s (setInputs rest s) :=
  keepsWritten_of_eq fun r _ => regValue_setInputs rest s r

theorem keepsWritten_hostRead (n : BitVec 12) (s : State) : KeepsWritten s (hostRead n s) :=
  keepsWritten_of_eq fun r _ => regValue_hostRead n s r

theorem keepsWritten_setBusy (s : State) : KeepsWritten s (setBusy s) := by
  refine keepsWritten_of_eq fun r hr => ?_
  cases r <;> first | rfl | exact absurd rfl hr

theorem keepsWritten_endState (e : ErrCode) (s : State) : KeepsWritten s (endState e s) := by
  refine keepsWritten_of_eq fun r hr => ?_
  cases r <;> first | rfl | exact absurd rfl hr

theorem keepsWritten_busAdvance (events : List BusEvent) (n : Nat) (s : State) :
    KeepsWritten s (busAdvance events n s) :=
  keepsWritten_of_eq fun r _ => by cases r <;> rfl

/-- A host write leaves the register it names with a value, and every other register as it was. -/
theorem keepsWritten_writeReg (r : RegName) (v : Nat) (s : State) : KeepsWritten s (writeReg r v s) := by
  cases hrw : r.readWrite with
  | false =>
    rw [writeReg_readOnly hrw]
    exact fun _ h => h
  | true =>
    intro q hq
    by_cases hqr : q = r
    · subst hqr
      rw [regValue_writeReg_self hrw]
      exact Option.some_ne_none _
    · by_cases hs : q = .status
      · subst hs
        exact regValue_status_ne_none _
      · rwa [regValue_writeReg_ne hqr hs]

/-! The results of the operations: the registers an operation writes hold a value after it, the others what they held. -/

theorem keepsWritten_storePacked (r : Packed) (s : State) : KeepsWritten s (storePacked r s) := by
  intro q hq
  cases q with
  | csc | grd | lpc | msg => simp [regValue]
  | status => exact regValue_status_ne_none _
  | _ => exact hq

theorem keepsWritten_storeConv (x : BitVec 32 × BitVec 32 × Vector Bit 162) (s : State) :
    KeepsWritten s (storeConv x s) := by
  intro q hq
  cases q with
  | r0 | r1 | fec => simp [regValue]
  | status => exact regValue_status_ne_none _
  | _ => exact hq

theorem keepsWritten_ilv (out : Vector Bit 162) (s : State) : KeepsWritten s { s with ilv := out.map some } := by
  intro q hq
  cases q with
  | ilv => simp [regValue]
  | status => exact regValue_status_ne_none _
  | _ => exact hq

theorem keepsWritten_sym (x : Vector (BitVec 2) 162) (s : State) : KeepsWritten s { s with sym := x.map some } := by
  intro q hq
  cases q with
  | sym => simp [regValue]
  | status => exact regValue_status_ne_none _
  | _ => exact hq

theorem keepsWritten_brv (x : Byte) (s : State) : KeepsWritten s { s with brv := some x } := by
  intro q hq
  cases q with
  | brv => simp [regValue]
  | status => exact regValue_status_ne_none _
  | _ => exact hq

/-- `ENCODE` writes what `PACK`, `CONV`, `ILV` and `MERGE` write. -/
theorem keepsWritten_storeEncoded (r : Packed) (ilv : Vector Bit 162) (s : State) :
    KeepsWritten s (storeEncoded r ilv s) :=
  (keepsWritten_storePacked r s).trans <| (keepsWritten_storeConv _ _).trans <|
    (keepsWritten_ilv ilv _).trans (keepsWritten_sym _ _)

theorem keepsWritten_imageWritten (base : Byte) (p1 : BitVec 18) (p2 p3 : BitVec 20) (k n : Nat) (s : State) :
    KeepsWritten s (imageWritten base p1 p2 p3 k n s) := by
  refine KeepsWritten.trans (fun q hq => ?_) (keepsWritten_busAdvance _ n (storeImage base p1 p2 p3 s))
  cases q with
  | p1 | p2 | p3 | imgbase | img => simp [regValue]
  | status => exact regValue_status_ne_none _
  | _ => exact hq

theorem Effect.keepsWritten {i : Instr} {s t : State} (h : Effect i s t) : KeepsWritten s t := by
  cases h with
  | failed => exact keepsWritten_endState _ _
  | packed o r => exact (keepsWritten_storePacked r s).trans (keepsWritten_endState _ _)
  | coded m => exact (keepsWritten_storeConv _ s).trans (keepsWritten_endState _ _)
  | interleaved _ out => exact (keepsWritten_ilv out s).trans (keepsWritten_endState _ _)
  | merged => exact (keepsWritten_sym _ s).trans (keepsWritten_endState _ _)
  | encoded o r ilv => exact (keepsWritten_storeEncoded r ilv s).trans (keepsWritten_endState _ _)
  | reversed x => exact (keepsWritten_brv x s).trans (keepsWritten_endState _ _)
  | image | toneHalf => exact (keepsWritten_imageWritten _ _ _ _ _ _ _).trans (keepsWritten_endState _ _)
  | driver => exact (keepsWritten_busAdvance _ _ _).trans (keepsWritten_endState _ _)
  | tone =>
    exact (keepsWritten_imageWritten _ _ _ _ _ _ _).trans <|
      (keepsWritten_imageWritten _ _ _ _ _ _ _).trans (keepsWritten_endState _ _)

/-- Settles O49, by the cases of a step: each of its updates but reset keeps the written-bits. -/
theorem writtenStaysWritten : Obligations.WrittenStaysWritten := by
  intro s t r hstep hnoreset
  suffices KeepsWritten s t from this r
  rcases step_cases hstep with ⟨-, rfl⟩ | ⟨input, rest, hinputs, -, hact⟩
  · exact fun _ h => h
  refine (keepsWritten_setInputs rest s).trans ?_
  rcases hact with ⟨rfl, -⟩ | ⟨n, -, rfl⟩ | ⟨n, v, -, rfl | ⟨r, -, rfl⟩ | ⟨-, hill⟩ | ⟨i, -, hexec⟩⟩
  · exact absurd hinputs (hnoreset rest)
  · exact keepsWritten_hostRead n _
  · exact fun _ h => h
  · exact keepsWritten_writeReg r v _
  · rw [endWith_eq] at hill
    cases hill
    exact (keepsWritten_setBusy _).trans (keepsWritten_endState _ _)
  · exact (keepsWritten_setBusy _).trans (effect_of_exec hexec).keepsWritten

/-! ### Valid flags (10_state.md R14) -/

/-- The valid flag an operation's rule says is set at its success: four of them for `ENCODE`, none for `BREV` and
`DRVCFG`. -/
def flagsOf : Instr → State → Bool
  | .pack, s => msgv s
  | .conv, s => fecv s
  | .ilv, s => ilvv s
  | .merge, s => symv s
  | .encode, s => msgv s && fecv s && ilvv s && symv s
  | .pllcfg _, s | .mscfg _, s | .tone _ _, s => pv s
  | .brev, _ | .drvcfg _, _ => true

theorem flagsOf_writesImage {i : Instr} (h : writesImage i) (s : State) : flagsOf i s = pv s := by
  rcases h with ⟨_, rfl⟩ | ⟨_, rfl⟩ | ⟨_, _, rfl⟩ <;> rfl

/-- Storing an image sets `PV`, however many of its bus writes complete. -/
theorem pv_endState_imageWritten (e : ErrCode) (base : Byte) (p1 : BitVec 18) (p2 p3 : BitVec 20) (k n : Nat)
    (s : State) : pv (endState e (imageWritten base p1 p2 p3 k n s)) = true := by
  simp [pv, allWritten_map_some]

/-- An operation that ends with `OK` has written every element of its results. -/
theorem Effect.flagsOf_eq_true {i : Instr} {s t : State} (h : Effect i s t) (hok : t.err = .ok) : flagsOf i t = true := by
  cases h with
  | failed e hne => exact absurd hok hne
  | packed _ _ hi => subst hi; exact allWritten_map_some _
  | coded _ hi => subst hi; exact allWritten_map_some _
  | interleaved _ _ hi => subst hi; exact allWritten_map_some _
  | merged _ hi => subst hi; exact allWritten_map_some _
  | encoded _ _ _ hi => subst hi; simp [flagsOf, msgv, fecv, ilvv, symv, allWritten_map_some]
  | reversed _ hi => subst hi; rfl
  | image _ _ _ _ _ _ _ hi =>
    rw [flagsOf_writesImage hi]
    exact pv_endState_imageWritten ..
  | driver _ _ _ _ _ _ hi => obtain ⟨_, rfl⟩ := hi; rfl
  | toneHalf _ _ _ _ _ _ hi | tone _ _ _ _ _ _ _ _ _ _ _ _ hi =>
    rw [flagsOf_writesImage (.inr (.inr hi))]
    exact pv_endState_imageWritten ..

/-- Settles O54: every effect that ends with `OK` has stored all the elements its flag is the AND of. -/
theorem validFlagsAfterSuccess : Obligations.ValidFlagsAfterSuccess := by
  intro s t
  have success {i : Instr} (h : exec i s = .next t) (hok : t.err = .ok) : flagsOf i t = true :=
    (effect_of_exec h).flagsOf_eq_true hok
  exact ⟨success, success, success, success, fun i hi h hok => flagsOf_writesImage hi t ▸ success h hok⟩

end Machine
end Sys2Proof
end

section
/-! PROOFS. The register map and the host accesses to it (10_state.md R11, R28, R29), reset (R35), and `STATUS` (R14). -/

namespace Sys2Proof
namespace Machine

open Sys2Proof.Spec

/-! ### Register numbers (10_state.md R11) -/

/-- The numbers of array elements are not cut by the 12 bits of a register number. -/
theorem toNat_elementNumber {base n : Nat} (h : base + n ≤ 2 ^ 12) (k : Fin n) :
    (BitVec.ofNat 12 (base + k.val)).toNat = base + k.val := by
  rw [BitVec.toNat_ofNat, Nat.mod_eq_of_lt (by omega)]

theorem arrayElement_eq_some {n base m : Nat} {f : Fin n → RegName} {r : RegName} :
    arrayElement n base m f = some r ↔ ∃ k : Fin n, base + k.val = m ∧ f k = r := by
  unfold arrayElement
  split_ifs with h
  · rw [Option.some.injEq]
    constructor
    · rintro rfl
      exact ⟨⟨m - base, h.2⟩, Nat.add_sub_cancel' h.1, rfl⟩
    · rintro ⟨k, rfl, rfl⟩
      simp
  · refine iff_of_false nofun ?_
    rintro ⟨k, rfl, -⟩
    omega

theorem number_of_arrayElement {n base m : Nat} {f : Fin n → RegName} {r : RegName} (hbase : base + n ≤ 2 ^ 12)
    (hf : ∀ k, (f k).number = BitVec.ofNat 12 (base + k.val)) (h : arrayElement n base m f = some r) :
    r.number.toNat = m := by
  obtain ⟨k, rfl, rfl⟩ := arrayElement_eq_some.mp h
  rw [hf, toNat_elementNumber hbase]

theorem orElse_eq_some_iff {α : Type} {o : Option α} {f : Unit → Option α} {x : α} :
    o.orElse f = some x ↔ o = some x ∨ o = none ∧ f () = some x := by
  cases o <;> simp [Option.orElse]

theorem number_of_arrayOfNumber {m : Nat} {r : RegName} (h : arrayOfNumber m = some r) : r.number.toNat = m := by
  unfold arrayOfNumber at h
  simp only [orElse_eq_some_iff] at h
  rcases h with h | ⟨-, h | ⟨-, h | ⟨-, h | ⟨-, h | ⟨-, h | ⟨-, h⟩⟩⟩⟩⟩⟩ <;>
    exact number_of_arrayElement (by decide) (fun _ => rfl) h

/-- A number names only the register whose number it is. -/
theorem number_of_ofNumber {n : BitVec 12} {r : RegName} (h : RegName.ofNumber n = some r) : r.number = n := by
  apply BitVec.eq_of_toNat_eq
  unfold RegName.ofNumber at h
  split at h
  case h_22 => exact number_of_arrayOfNumber h
  all_goals
    next hn =>
      cases h
      exact hn.symm

/-- Every register is named by its number: no two rows of the map share one. -/
theorem ofNumber_number (r : RegName) : RegName.ofNumber r.number = some r := by
  cases r with
  | call k | grid k | msg k | img k | fec k | ilv k | sym k => revert k; decide +kernel
  | _ => rfl

theorem ofNumber_eq_some_iff {n : BitVec 12} {r : RegName} : RegName.ofNumber n = some r ↔ r.number = n :=
  ⟨number_of_ofNumber, fun h => h ▸ ofNumber_number r⟩

/-- The model's functions on registers give the columns of the map of R11. -/
theorem mem_registerMap (s : State) (r : RegName) :
    (r, r.number.toNat, regWidth s r, r.readWrite, regValue s r) ∈ registerMap s := by
  simp only [registerMap, List.mem_append, List.mem_map, List.mem_finRange, true_and, List.mem_cons, List.not_mem_nil,
    or_false, Prod.mk.injEq]
  cases r with
  | call k | grid k | msg k | img k | fec k | ilv k | sym k =>
    simp only [reduceCtorEq, false_and, exists_false, false_or, or_false, RegName.call.injEq, RegName.grid.injEq,
      RegName.msg.injEq, RegName.img.injEq, RegName.fec.injEq, RegName.ilv.injEq, RegName.sym.injEq]
    exact ⟨k, rfl, (toNat_elementNumber (by decide) k).symm, rfl, rfl, rfl⟩
  | _ =>
    simp only [reduceCtorEq, false_and, exists_false, false_or, or_false]
    exact ⟨trivial, rfl, rfl, rfl, rfl⟩

/-- Settles O3: the map row by row, and the numbers by their inverse. -/
theorem registerNumbersAgree : Obligations.RegisterNumbersAgree :=
  ⟨mem_registerMap, fun _ _ => ofNumber_eq_some_iff⟩

/-! ### The cases of a host access as steps (10_state.md R28) -/

section
variable {s : State} {n : BitVec 12} {rest : List Input}

theorem step_write {v : Nat} (hin : s.inputs = .write n v :: rest) (hidle : s.busy = false) :
    step s = hostWrite n v (setInputs rest s) :=
  (step_act hin).trans (act_write (s := setInputs rest s) hidle n v)

theorem step_read (hin : s.inputs = .read n :: rest) (hidle : s.busy = false) :
    step s = .next (hostRead n (setInputs rest s)) :=
  (step_act hin).trans (act_read (s := setInputs rest s) hidle n)

theorem step_reset (hin : s.inputs = .reset :: rest) (hidle : s.busy = false) :
    step s = .next (setInputs rest s).resetBlock :=
  (step_act hin).trans (act_reset (s := setInputs rest s) hidle)

/-- A host read of `n` appends what it returns and leaves the block as it was. -/
theorem step_read_eq (hin : s.inputs = .read n :: rest) (hidle : s.busy = false) {x : Nat}
    (hx : hostReadValue n (setInputs rest s) = x) :
    step s = .next { s with
      inputs := rest, readCount := s.readCount + 1, responses := s.responses ++ [(n, x)] } := by
  rw [step_read hin hidle, ← hx]
  rfl

end

theorem regWidth_setInputs (rest : List Input) (s : State) (r : RegName) :
    regWidth (setInputs rest s) r = regWidth s r := by
  cases r <;> rfl

theorem ne_cmd_of_readWrite {r : RegName} (h : r.readWrite = true) : r ≠ .cmd := by
  rintro rfl
  cases h

/-- Settles O8: the step writes the one register its number names. -/
theorem hostWriteSetsOneElement : Obligations.HostWriteSetsOneElement := by
  intro s r v rest hin hidle hrw
  obtain ⟨herr, hbusy, hlog, hcfg, hinputs, hreplies, hcount, hreads, hresponses⟩ :=
    writeReg_others r v (setInputs rest s)
  refine ⟨writeReg r v (setInputs rest s), ?_, ?_, ?_, herr, hbusy.trans hidle, hlog, hcfg, hinputs, hreplies, hcount,
    hreads, hresponses⟩
  · rw [step_write hin hidle, hostWrite_reg (ofNumber_number r) (ne_cmd_of_readWrite hrw)]
  · rw [regValue_writeReg_self hrw, regWidth_setInputs]
  · intro q hq hstatus
    rw [regValue_writeReg_ne hq hstatus, regValue_setInputs]

/-- Settles O9: a reserved number names nothing to write, and a read-only register takes no datum. -/
theorem hostWriteElsewhereHasNoEffect : Obligations.HostWriteElsewhereHasNoEffect := by
  intro s n v rest hin hidle hn
  suffices hostWrite n v (setInputs rest s) = .next (setInputs rest s) from (step_write hin hidle).trans this
  rcases hn with hreserved | ⟨r, hr, hcmd, hro⟩
  · exact hostWrite_reserved hreserved v _
  · rw [hostWrite_reg hr hcmd, writeReg_readOnly hro]

/-- Settles O10: a read of a register with a value returns that value. -/
theorem hostReadReturnsTheValue : Obligations.HostReadReturnsTheValue := by
  intro s n r x rest hin hidle hr hx
  exact step_read_eq hin hidle (hostReadValue_written hr ((regValue_setInputs rest s r).trans hx))

/-- Settles O11: an unwritten element is read as the free value reduced to its width, `CMD` and a reserved number as
the free value. -/
theorem hostReadOfNoValueFitsTheWidth : Obligations.HostReadOfNoValueFitsTheWidth := by
  intro s n rest hin hidle
  constructor
  · intro r hr hcmd hnone
    refine ⟨Config.freeRead s.readCount % 2 ^ regWidth s r, Nat.mod_lt _ (Nat.two_pow_pos _), ?_⟩
    refine step_read_eq hin hidle ?_
    rw [hostReadValue_unwritten hr hcmd ((regValue_setInputs rest s r).trans hnone), regWidth_setInputs,
      setInputs_readCount]
  · intro hn
    exact ⟨_, step_read_eq hin hidle (hostReadValue_unnamed hn _)⟩

/-! ### Reset (10_state.md R35) -/

theorem regValue_resetBlock (s : State) {r : RegName} (hr : r ≠ .status) : regValue s.resetBlock r = none := by
  cases r with
  | status => exact absurd rfl hr
  | call | grid | msg | img | fec | ilv | sym => simp [regValue, State.resetBlock]
  | _ => rfl

theorem statusWord_resetBlock (s : State) : statusWord s.resetBlock = 0 := by
  simp [statusWord, pv, symv, ilvv, fecv, msgv, State.resetBlock, allWritten, ErrCode.code]

/-- Settles O12: the reset input applies the block's reset, and the reset state is the block's reset of itself. -/
theorem resetLeavesNoValue : Obligations.ResetLeavesNoValue :=
  ⟨fun _ _ hin hidle => ⟨_, step_reset hin hidle, statusWord_resetBlock _, rfl, fun _ => regValue_resetBlock _, rfl,
      rfl, rfl, rfl, rfl⟩,
    reset_resetBlock ▸ ⟨statusWord_resetBlock _, fun _ => regValue_resetBlock _, rfl⟩⟩

/-! ### `STATUS` (10_state.md R14) -/

theorem allWritten_iff {w n : Nat} {v : Vector (Reg w) n} : allWritten v = true ↔ ∀ k : Fin n, v[k] ≠ none := by
  simp [allWritten, Vector.all_eq_true, Fin.forall_iff, Option.isSome_iff_ne_none]

theorem pv_iff {s : State} : pv s = true ↔
    s.p1 ≠ none ∧ s.p2 ≠ none ∧ s.p3 ≠ none ∧ s.imgbase ≠ none ∧ ∀ k : Fin 8, s.img[k] ≠ none := by
  simp only [pv, Bool.and_eq_true, Option.isSome_iff_ne_none, allWritten_iff, and_assoc]

/-- The fields of a word put together as `STATUS` is. -/
theorem appended_fields (code : BitVec 4) (busy m f i y p : Bool) :
    let word := 0#6 ++ BitVec.ofBool p ++ BitVec.ofBool y ++ BitVec.ofBool i ++ BitVec.ofBool f ++
      BitVec.ofBool m ++ BitVec.ofBool busy ++ code
    word.extractLsb' 0 4 = code ∧ word.getLsbD 4 = busy ∧ word.getLsbD 5 = m ∧ word.getLsbD 6 = f ∧
      word.getLsbD 7 = i ∧ word.getLsbD 8 = y ∧ word.getLsbD 9 = p ∧ word.extractLsb' 10 6 = 0 := by
  refine ⟨?_, ?_, ?_, ?_, ?_, ?_, ?_, ?_⟩
  case refine_1 =>
    refine BitVec.eq_of_getLsbD_eq fun k hk => ?_
    simp only [BitVec.getLsbD_extractLsb', BitVec.getLsbD_append]
    simp [hk]
  case refine_8 =>
    refine BitVec.eq_of_getLsbD_eq fun k hk => ?_
    simp only [BitVec.getLsbD_extractLsb', BitVec.getLsbD_append]
    interval_cases k <;> simp
  all_goals
    simp only [BitVec.getLsbD_append]
    simp

theorem statusWord_fields (s : State) :
    (statusWord s).extractLsb' 0 4 = s.err.code ∧ (statusWord s).getLsbD 4 = s.busy ∧
      (statusWord s).getLsbD 5 = msgv s ∧ (statusWord s).getLsbD 6 = fecv s ∧ (statusWord s).getLsbD 7 = ilvv s ∧
      (statusWord s).getLsbD 8 = symv s ∧ (statusWord s).getLsbD 9 = pv s ∧ (statusWord s).extractLsb' 10 6 = 0 :=
  appended_fields s.err.code s.busy (msgv s) (fecv s) (ilvv s) (symv s) (pv s)

/-- Settles O13: the layout of the word, with each flag read as the AND of its written-bits. -/
theorem statusFields : Obligations.StatusFields := by
  intro s
  obtain ⟨herr, hbusy, hmsg, hfec, hilv, hsym, hpv, hzero⟩ := statusWord_fields s
  refine ⟨?_, hbusy, ?_, ?_, ?_, ?_, ?_, hzero⟩
  · rw [herr]
    cases s.err <;> decide
  · rw [hmsg, msgv, allWritten_iff]
  · rw [hfec, fecv, allWritten_iff]
  · rw [hilv, ilvv, allWritten_iff]
  · rw [hsym, symv, allWritten_iff]
  · rw [hpv, pv_iff]

end Machine
end Sys2Proof
end

section
/-! PROOFS. The Register Bus and the two units (20_memory.md): what a step adds to the bus history, and which results
each unit leaves alone. -/

namespace Sys2Proof
namespace Machine

open Sys2Proof.Safety Sys2Proof.Spec

/-! ### The bus history (20_memory.md R41, R46, R47) -/

/-- The history of `t` is that of `s` with events at its end that the block may produce. -/
def LogExtends (s t : State) : Prop :=
  ∃ events, t.busLog = s.busLog ++ events ∧ ∀ e ∈ events, eventOk s.cfg e

theorem logExtends_of_eq {s t : State} (h : t.busLog = s.busLog) : LogExtends s t :=
  ⟨[], by rw [h, List.append_nil], nofun⟩

theorem LogExtends.trans {s t u : State} (h : LogExtends s t) (h' : LogExtends t u) (hcfg : t.cfg = s.cfg) :
    LogExtends s u := by
  obtain ⟨events, hlog, hev⟩ := h
  obtain ⟨events', hlog', hev'⟩ := h'
  rw [hcfg] at hev'
  exact ⟨events ++ events', by rw [hlog', hlog, List.append_assoc], List.forall_mem_append.mpr ⟨hev, hev'⟩⟩

theorem LogExtends.endState {s t : State} (h : LogExtends s t) (e : ErrCode) : LogExtends s (endState e t) := h

/-- However many of its writes complete, an image at a configured base stays inside that image's registers. -/
theorem logExtends_imageWritten {s : State} {base : Byte} (hbase : base.toNat ∈ s.cfg.par.raw.imageBases)
    (p1 : BitVec 18) (p2 p3 : BitVec 20) (k n : Nat) : LogExtends s (imageWritten base p1 p2 p3 k n s) := by
  refine ⟨_, imageWritten_busLog .., fun e he => ?_⟩
  obtain ⟨w, hw, rfl⟩ := List.mem_map.mp he
  exact eventOk_of_imageWrites hbase (List.mem_of_mem_take hw)

theorem Effect.logExtends {i : Instr} {s t : State} (h : Effect i s t) : LogExtends s t := by
  cases h with
  | failed | packed | coded | interleaved | merged | encoded | reversed => exact logExtends_of_eq rfl
  | image _ _ _ _ _ _ _ _ hbase | toneHalf _ _ _ _ _ _ _ hbase =>
    exact (logExtends_imageWritten hbase ..).endState _
  | driver reg d events _ _ old _ hreg _ hev =>
    have hread := (eventOk_ctrlReg hreg old).1
    have hwrite := (eventOk_ctrlReg hreg (controlByte old d)).2
    refine ⟨events, rfl, ?_⟩
    rcases hev with rfl | rfl | rfl <;> simp [hread, hwrite]
  | tone base p1 p2 p3 n _ p1' p2' p3' k' n' e _ hbase _ hbase' =>
    have hsecond := logExtends_imageWritten (s := imageWritten base p1 p2 p3 8 n s) hbase' p1' p2' p3' k' n'
    exact ((logExtends_imageWritten hbase ..).trans hsecond rfl).endState e

/-- A step empties the history, if it is a reset, or extends it. -/
theorem step_log {s t : State} (hstep : step s = .next t) :
    (∃ rest, s.inputs = .reset :: rest ∧ t.busLog = []) ∨ LogExtends s t := by
  rcases step_cases hstep with ⟨-, rfl⟩ | ⟨input, rest, hinputs, -, hact⟩
  · exact .inr (logExtends_of_eq rfl)
  rcases hact with ⟨rfl, rfl⟩ | ⟨n, -, rfl⟩ | ⟨n, v, -, rfl | ⟨r, -, rfl⟩ | ⟨-, hill⟩ | ⟨i, -, hexec⟩⟩
  · exact .inl ⟨rest, hinputs, rfl⟩
  · exact .inr (logExtends_of_eq rfl)
  · exact .inr (logExtends_of_eq rfl)
  · obtain ⟨-, -, hlog, -⟩ := writeReg_others r v (setInputs rest s)
    exact .inr (logExtends_of_eq hlog)
  · rw [endWith_eq] at hill
    cases hill
    exact .inr (logExtends_of_eq rfl)
  · exact .inr (effect_of_exec hexec).logExtends

/-- Settles O47: a configuration carries its bounds with it, and an event after a step is an old one or one of those
the step appended. -/
theorem neverTouchesRegistersAbove200 : Obligations.NeverTouchesRegistersAbove200 := by
  refine ⟨fun _ => ⟨fun _ => imageBase_add_seven_lt, fun _ => ctrlReg_lt⟩, fun s t hstep e he => ?_⟩
  rcases step_log hstep with ⟨_, -, hempty⟩ | ⟨events, hlog, hev⟩
  · rw [hempty] at he
    cases he
  · rw [hlog, List.mem_append] at he
    exact he.imp_right (hev e)

/-- Settles O48: a step that is no reset extends the history. -/
theorem busHistoryOnlyGrows : Obligations.BusHistoryOnlyGrows := by
  intro s t hstep hnoreset
  rcases step_log hstep with ⟨rest, hreset, -⟩ | ⟨events, hlog, -⟩
  · exact absurd hreset (hnoreset rest)
  · exact ⟨events, hlog⟩

/-! ### The results of the two units (20_memory.md R40, 10_state.md R11) -/

/-- The bus and the registers of the SYN unit are in `t` as in `s`: what an ENC operation has to leave alone. -/
def SynKept (s t : State) : Prop :=
  t.busLog = s.busLog ∧ t.busReplies = s.busReplies ∧ t.busCount = s.busCount ∧ t.p1 = s.p1 ∧ t.p2 = s.p2 ∧
    t.p3 = s.p3 ∧ t.imgbase = s.imgbase ∧ t.img = s.img

/-- The results of the ENC unit are in `t` as in `s`: what a SYN operation has to leave alone. -/
def EncKept (s t : State) : Prop :=
  t.csc = s.csc ∧ t.grd = s.grd ∧ t.lpc = s.lpc ∧ t.msg = s.msg ∧ t.r0 = s.r0 ∧ t.r1 = s.r1 ∧ t.fec = s.fec ∧
    t.ilv = s.ilv ∧ t.sym = s.sym ∧ t.brv = s.brv

theorem isEnc_of_writesImage {i : Instr} (h : writesImage i) : isEnc i = false := by
  rcases h with ⟨_, rfl⟩ | ⟨_, rfl⟩ | ⟨_, _, rfl⟩ <;> rfl

/-- The effects of an ENC operation keep the SYN side; the others belong to SYN operations. -/
theorem Effect.synKept {i : Instr} {s t : State} (h : Effect i s t) (henc : isEnc i = true) : SynKept s t := by
  cases h with
  | failed | packed | coded | interleaved | merged | encoded | reversed => simp [SynKept]
  | image _ _ _ _ _ _ _ hi => simp [isEnc_of_writesImage hi] at henc
  | driver _ _ _ _ _ _ hi => obtain ⟨_, rfl⟩ := hi; cases henc
  | toneHalf _ _ _ _ _ _ hi | tone _ _ _ _ _ _ _ _ _ _ _ _ hi => obtain ⟨_, _, rfl⟩ := hi; cases henc

/-- The effects of a SYN operation keep the ENC side; the others belong to ENC operations. -/
theorem Effect.encKept {i : Instr} {s t : State} (h : Effect i s t) (hsyn : isEnc i = false) : EncKept s t := by
  cases h with
  | failed | image | driver | toneHalf | tone => simp [EncKept]
  | packed _ _ hi | coded _ hi | interleaved _ _ hi | merged _ hi | encoded _ _ _ hi | reversed _ hi =>
    subst hi; cases hsyn

/-- Settles O51, from the effects of the operation's own unit. -/
theorem unitsShareNoRegister : Obligations.UnitsShareNoRegister :=
  fun _ _ _ h => ⟨(effect_of_exec h).synKept, (effect_of_exec h).encKept⟩

end Machine
end Sys2Proof
end

section
/-! PROOFS. The command byte and the characters (30_encoding.md): the opcode map against the decoder (R61, R63), the
step that runs a decoded command (R62), and the values of the characters (R67). -/

namespace Sys2Proof
namespace Machine

open Sys2Proof.Spec

/-! ### The command byte (30_encoding.md R60 to R63) -/

/-- A command byte is its two fields. -/
theorem opField_append_selField (b : Byte) : opField b ++ selField b = b :=
  (BitVec.extractLsb'_append_extractLsb'_eq_extractLsb' rfl).trans BitVec.extractLsb'_eq_self

theorem eq_ofNat_of_toNat_eq {op : BitVec 4} {n : Nat} (h : op.toNat = n) : op = BitVec.ofNat 4 n := by
  rw [← h, BitVec.ofNat_toNat, BitVec.setWidth_eq]

/-- Settles O1, by the decoder's branches: in the row of an `op` the sixteen `sel` are compared with the map's bytes,
and a reserved `op` is in none of them. -/
theorem decoderIsTheOpcodeMap : Obligations.DecoderIsTheOpcodeMap := by
  intro b
  have hfields := opField_append_selField b
  unfold decode
  generalize opField b = op, selField b = sel at hfields ⊢
  subst hfields
  split
  case h_11 =>
    revert op sel
    decide +kernel
  all_goals
    next hop =>
      cases eq_ofNat_of_toNat_eq hop
      revert sel
      decide +kernel

/-- Settles O4: register 0 is `CMD`, and a block that is not stopped executes the command its datum decodes to. -/
theorem stepRunsTheDecodedCommand : Obligations.StepRunsTheDecodedCommand := by
  intro s v rest i hin hidle hrunning hdecode
  rw [step_write hin hidle, hostWrite_cmd, command_exec (s := setInputs rest s) hrunning hdecode]
  rfl

/-! ### Character values (30_encoding.md R67) -/

theorem isDigit_iff {b : Byte} : isDigit b = true ↔ 0x30 ≤ b ∧ b ≤ 0x39 :=
  decide_eq_true_iff.trans (and_congr_right' Nat.lt_succ_iff)

theorem isLetter_iff {b : Byte} : isLetter b = true ↔ 0x41 ≤ b ∧ b ≤ 0x5A :=
  decide_eq_true_iff.trans (and_congr_right' Nat.lt_succ_iff)

/-- Settles O22: the ranges of the digits and letters are those of `isDigit` and `isLetter`, and no difference from
the range's first byte wraps. -/
theorem characterValues : Obligations.CharacterValues := by
  intro b
  simp only [cval, isDigit_iff, isLetter_iff, spaceByte]
  split_ifs with hdigit hletter hspace
  · obtain ⟨hfirst, -⟩ := hdigit
    rw [BitVec.toNat_sub_of_le hfirst]
    rfl
  · obtain ⟨hfirst, -⟩ := hletter
    rw [BitVec.toNat_sub_of_le hfirst]
    rfl
  · exact if_pos hspace
  · exact if_neg hspace

end Machine
end Sys2Proof
end

section
/-! PROOFS. Source coding (40_source_coding.md): the seven steps of `PACK` in numbers (R91 to R98), the order of their
tests (R99), and the widths of their results (R100). -/

namespace Sys2Proof
namespace Machine

open Sys2Proof.Spec

/-! ### Power (40_source_coding.md R91) -/

/-- Settles O20: below 61 the three residues leave the nineteen values. -/
theorem legalPowers : Obligations.LegalPowers := by
  intro p
  simp only [List.mem_cons, List.not_mem_nil, or_false]
  constructor
  · rintro ⟨hle, hresidue⟩
    omega
  · omega

/-! ### Normalization (R92) -/

/-- The string has a character at the index, and it is a digit. -/
def HasDigitAt (s : List Byte) (k : Nat) : Prop := ∃ b : Byte, s[k]? = some b ∧ 0x30 ≤ b ∧ b ≤ 0x39

theorem digitAtTwo_iff_hasDigitAt {s : List Byte} : digitAtTwo s = true ↔ HasDigitAt s 2 := by
  simp only [digitAtTwo_iff, isDigit_iff, HasDigitAt]

theorem hasDigitAt_cons_succ {c : Byte} {s : List Byte} {k : Nat} : HasDigitAt (c :: s) (k + 1) ↔ HasDigitAt s k := by
  simp only [HasDigitAt, List.getElem?_cons_succ]

theorem hasDigitAt_two_cons_cons {c d : Byte} {s : List Byte} : HasDigitAt (c :: d :: s) 2 ↔ HasDigitAt s 0 :=
  hasDigitAt_cons_succ.trans hasDigitAt_cons_succ

theorem not_hasDigitAt_space (s : List Byte) : ¬ HasDigitAt (spaceByte :: s) 0 := by
  rintro ⟨b, hb, hfirst, -⟩
  cases hb
  exact absurd hfirst (by decide)

theorem padLeft_of_digit (left : Nat) {s : List Byte} (h : HasDigitAt s 2) : padLeft left s = some s := by
  cases left <;> exact if_pos (digitAtTwo_iff_hasDigitAt.mpr h)

theorem padLeft_zero_of_no_digit {s : List Byte} (h : ¬ HasDigitAt s 2) : padLeft 0 s = none :=
  if_neg (mt digitAtTwo_iff_hasDigitAt.mp h)

theorem padLeft_succ_of_no_digit {left : Nat} {s : List Byte} (h : ¬ HasDigitAt s 2) :
    padLeft (left + 1) s = padLeft left (spaceByte :: s) :=
  if_neg (mt digitAtTwo_iff_hasDigitAt.mp h)

theorem padRight_replicate_append (k : Nat) (s : List Byte) :
    padRight (List.replicate k spaceByte ++ s) =
      List.replicate k spaceByte ++ s ++ List.replicate (6 - (s.length + k)) spaceByte := by
  rw [padRight, List.length_append, List.length_replicate, Nat.add_comm k]

theorem normalizeCallsign_of_le {clen : Nat} (h : clen ≤ 16) (s : List Byte) :
    normalizeCallsign clen s = (padLeft 3 s).map padRight := if_pos h

/-- Settles O21: each prepended space brings the next lower index of the callsign to index 2, and after the third a
space stands there. -/
theorem normalizeFindsTheDigit : Obligations.NormalizeFindsTheDigit := by
  intro clen s digit out
  refine ⟨fun hlong => if_neg (Nat.not_le.mpr hlong), fun hclen => ?_⟩
  rw [normalizeCallsign_of_le hclen]
  have padded {k : Nat} (h : padLeft 3 s = some (List.replicate k spaceByte ++ s)) :
      (padLeft 3 s).map padRight = some (out k) := by
    rw [h, Option.map_some, padRight_replicate_append]
    rfl
  have one_space (h2 : ¬ digit 2) : padLeft 3 s = padLeft 2 (spaceByte :: s) := padLeft_succ_of_no_digit h2
  have two_spaces (h2 : ¬ digit 2) (h1 : ¬ digit 1) : padLeft 3 s = padLeft 1 (spaceByte :: spaceByte :: s) := by
    rw [one_space h2, padLeft_succ_of_no_digit (mt hasDigitAt_cons_succ.mp h1)]
  refine ⟨fun h2 => padded (k := 0) ?_, fun h2 h1 => padded (k := 1) ?_, fun h2 h1 h0 => padded (k := 2) ?_,
    fun h2 h1 h0 => ?_⟩
  · exact padLeft_of_digit 3 h2
  · rw [one_space h2]
    exact padLeft_of_digit 2 (hasDigitAt_cons_succ.mpr h1)
  · rw [two_spaces h2 h1]
    exact padLeft_of_digit 1 (hasDigitAt_two_cons_cons.mpr h0)
  · rw [two_spaces h2 h1, padLeft_succ_of_no_digit (mt hasDigitAt_two_cons_cons.mp h0),
      padLeft_zero_of_no_digit (mt hasDigitAt_two_cons_cons.mp (not_hasDigitAt_space s))]
    rfl

/-! ### The callsign part: characters, length and suffix, the fold (R93 to R96) -/

theorem charValues_eq_none {t : List Byte} : charValues t = none ↔ ∃ c ∈ t, cval c = none := by
  induction t with
  | nil => simp [charValues]
  | cons b t ih => cases h : cval b <;> simp [charValues, h, ih]

/-- The length and suffix tests in words (R94, R95). -/
theorem callsignShapeOk_iff {v : List Nat} :
    callsignShapeOk v = true ↔ v.length = 6 ∧ ∀ k ∈ [3, 4, 5], 10 ≤ v.getD k 0 := by
  simp [callsignShapeOk, and_assoc]

theorem callsignValues_of_not_normalizing {clen : Nat} {call : List Byte} (h : normalizeCallsign clen call = none) :
    callsignValues clen call = .error .invalidCallsign := by
  simp only [callsignValues, h]

theorem callsignValues_of_bad_character {clen : Nat} {call t : List Byte} (ht : normalizeCallsign clen call = some t)
    (h : ∃ c ∈ t, cval c = none) : callsignValues clen call = .error .invalidCharacter := by
  simp only [callsignValues, ht, charValues_eq_none.mpr h]

theorem callsignValues_of_values {clen : Nat} {call t : List Byte} {v : List Nat}
    (ht : normalizeCallsign clen call = some t) (hv : t.map cval = v.map some) :
    callsignValues clen call = if callsignShapeOk v then .ok v else .error .invalidCallsign := by
  simp only [callsignValues, ht, charValues_eq_some.mpr hv]

theorem callsignValues_of_reads {clen : Byte} {call : List Byte} {v : Vector Nat 6} (h : callsignReads clen call v) :
    callsignValues clen.toNat call = .ok v.toList := by
  obtain ⟨⟨t, ht, hv⟩, h3, h4, h5⟩ := h
  rw [callsignValues_of_values ht hv, if_pos]
  rw [callsignShapeOk_iff]
  simp [h3, h4, h5]

/-- The fold over the six values is the number of 30_encoding.md R68. -/
theorem callsignCode_toList (v : Vector Nat 6) : callsignCode v.toList = callsignNumber v := by
  simp [callsignCode, callsignNumber]

/-! ### The locator and the codes (R97, R98) -/

theorem locatorOk_iff {g : Vector Byte 4} : locatorOk g = true ↔ locatorLegal g := by
  simp only [locatorOk, isDigit, Bool.and_eq_true, decide_eq_true_eq, locatorLegal]
  omega

/-- On a legal locator no subtraction of the model's natural numbers is cut at 0. -/
theorem gridNumber_eq_gridCode {g : Vector Byte 4} (h : locatorLegal g) : gridNumber g = gridCode g := by
  obtain ⟨h0, h1, h2, h3⟩ := h
  simp only [gridNumber, gridCode]
  omega

theorem cast_locatorPowerCode (g p : Nat) : (locatorPowerCode g p : Int) = (g : Int) * 128 + p + 64 := by
  simp [locatorPowerCode]

/-- The fields of the message do not overlap, and the mask on the second removes nothing (R100). -/
theorem messageValue_eq (n : Nat) {m : Nat} (hm : m < 2 ^ 22) : messageValue n m = n * 2 ^ 28 + m * 2 ^ 6 := by
  have hmask : m &&& 0x3FFFFF = m := (Nat.and_two_pow_sub_one_eq_mod m 22).trans (Nat.mod_eq_of_lt hm)
  rw [messageValue, hmask, ← Nat.shiftLeft_add_eq_or_of_lt hm, Nat.shiftLeft_eq, Nat.shiftLeft_eq]
  omega

theorem messageByte_eq_ofInt (x k : Nat) : messageByte x k = BitVec.ofInt 8 ((x : Int) / 2 ^ (48 - 8 * k)) := by
  rw [messageByte, Nat.shiftRight_eq_div_pow, ← BitVec.ofInt_natCast, Int.natCast_ediv, Int.natCast_pow,
    Nat.cast_ofNat]

/-- Settles O23: the bounds of the model's own codes, carried over to the numbers, and the sum of the message's
fields. -/
theorem packedCodesFit : Obligations.PackedCodesFit := by
  have grid {g : Vector Byte 4} (hg : locatorLegal g) : 0 ≤ gridNumber g ∧ gridNumber g ≤ 32399 := by
    have hle := gridCode_le (locatorOk_iff.mpr hg)
    rw [gridNumber_eq_gridCode hg]
    omega
  refine ⟨fun clen call v hv => ?_, fun g => grid, fun g p hg hp => ?_, fun n m hn hm => ?_⟩
  · have hlt := callsignCode_lt (callsignValues_of_reads hv)
    rw [callsignCode_toList] at hlt
    omega
  · obtain ⟨hle, -⟩ := hp
    have := grid hg
    omega
  · rw [messageValue_eq n (by omega)]
    omega

/-! ### The operation (R99) -/

theorem packOperands_of_reads {s : State} {pwr clen : Byte} {call : List Byte} {grid : Vector Byte 4}
    (h : packReads s pwr clen call grid) : packOperands s = some ⟨pwr, clen, call, grid⟩ :=
  (packOperands_eq_some s _).mpr h

section
variable {o : PackOperands}

theorem packResult_of_illegal_power (hp : ¬ powerOk o.pwr.toNat) : packResult o = .error .invalidPower := if_neg hp

theorem packResult_of_callsign_error {e : ErrCode} (hp : powerOk o.pwr.toNat)
    (hc : callsignValues o.clen.toNat o.call = .error e) : packResult o = .error e := by
  rw [packResult, if_pos hp, hc]

theorem packResult_of_values {v : List Nat} (hp : powerOk o.pwr.toNat)
    (hc : callsignValues o.clen.toNat o.call = .ok v) :
    packResult o = if locatorOk o.grid then .ok (assemble v o.grid o.pwr.toNat) else .error .invalidLocator := by
  rw [packResult, if_pos hp, hc]

end

theorem packBody_of_operands {s : State} {o : PackOperands} (ho : packOperands s = some o) :
    packBody s = (packResult o).map fun r => storePacked r s := by
  simp only [packBody, ho]

/-- A failing test of `PACK` is all there is of `PACK` and of `ENCODE` (R99, 42_interleaver_sync_merge.md R130). -/
theorem exec_of_packResult_error {s : State} {o : PackOperands} {e : ErrCode} {i : Instr}
    (hi : i = .pack ∨ i = .encode) (ho : packOperands s = some o) (he : packResult o = .error e) :
    exec i s = .next (ended e s) := by
  have hbody : packBody s = .error e := by
    rw [packBody_of_operands ho, he]
    rfl
  rcases hi with rfl | rfl
  · exact congrArg (settle s) hbody
  · exact congrArg (settle s) (encodeBody_error hbody)

theorem exec_pack_of_packResult_ok {s : State} {o : PackOperands} {r : Packed} (ho : packOperands s = some o)
    (hr : packResult o = .ok r) : exec .pack s = .next (ended .ok (storePacked r s)) := by
  have hbody : packBody s = .ok (storePacked r s) := by
    rw [packBody_of_operands ho, hr]
    rfl
  exact congrArg (settle s) hbody

/-- Settles O19: each clause's test is the first to fail in the pseudocode. -/
theorem packReportsTheFirstFailingTest : Obligations.PackReportsTheFirstFailingTest := by
  intro s pwr clen call grid hreads i hi
  have ends {e : ErrCode} (he : packResult ⟨pwr, clen, call, grid⟩ = .error e) : exec i s = .next (ended e s) :=
    exec_of_packResult_error hi (packOperands_of_reads hreads) he
  refine ⟨?power, ?normalization, ?characters, ?shape, ?locator⟩
  case power => exact fun hp => ends (packResult_of_illegal_power hp)
  case normalization =>
    exact fun hp hn => ends (packResult_of_callsign_error hp (callsignValues_of_not_normalizing hn))
  case characters =>
    exact fun t hp ht hc => ends (packResult_of_callsign_error hp (callsignValues_of_bad_character ht hc))
  case shape =>
    intro t v hp ht hv hbad
    refine ends (packResult_of_callsign_error hp ?_)
    have hshape : ¬ callsignShapeOk v = true := by
      rw [callsignShapeOk_iff]
      rintro ⟨hlength, hsuffix⟩
      rcases hbad with hne | ⟨k, hk, hlt⟩
      · exact hne hlength
      · exact Nat.not_le.mpr hlt (hsuffix k hk)
    rw [callsignValues_of_values ht hv, if_neg hshape]
  case locator =>
    intro v hp hv hl
    refine ends ?_
    rw [packResult_of_values hp (callsignValues_of_reads hv), if_neg (mt locatorOk_iff.mp hl)]

/-- What `PACK` assembles from legal operands, in numbers (R96 to R99). -/
theorem assemble_eq {grid : Vector Byte 4} (v : Vector Nat 6) {power : Nat} (hl : locatorLegal grid)
    (hp : powerOk power) :
    assemble v.toList grid power =
      { csc := BitVec.ofNat 28 (callsignNumber v)
        grd := BitVec.ofInt 15 (gridNumber grid)
        lpc := BitVec.ofInt 22 (gridNumber grid * 128 + power + 64)
        msg := Vector.ofFn fun k => BitVec.ofInt 8
          ((callsignNumber v * 2 ^ 28 + (gridNumber grid * 128 + power + 64) * 2 ^ 6) / 2 ^ (48 - 8 * k.val)) } := by
  have hgrid := gridCode_le (locatorOk_iff.mpr hl)
  obtain ⟨hpower, -⟩ := hp
  have hcode : locatorPowerCode (gridCode grid) power < 2 ^ 22 := by
    unfold locatorPowerCode
    omega
  simp only [gridNumber_eq_gridCode hl, ← cast_locatorPowerCode, BitVec.ofInt_natCast, assemble, callsignCode_toList,
    messageValue_eq _ hcode, messageByte_eq_ofInt, Nat.cast_add, Nat.cast_mul, Nat.cast_pow, Nat.cast_ofNat]

/-- Settles O18: every test passes, and what `PACK` then assembles are the numbers. -/
theorem packWritesTheMessage : Obligations.PackWritesTheMessage := by
  intro s pwr clen call grid v hreads hp hv hl
  have hresult : packResult ⟨pwr, clen, call, grid⟩ = .ok (assemble v.toList grid pwr.toNat) := by
    rw [packResult_of_values hp (callsignValues_of_reads hv), if_pos (locatorOk_iff.mpr hl)]
  rw [exec_pack_of_packResult_ok (packOperands_of_reads hreads) hresult, assemble_eq v hl hp, storePacked,
    Vector.map_ofFn]
  rfl

end Machine
end Sys2Proof
end

section
/-! PROOFS. The convolutional encoder (41_convolutional_encoder.md): its registers as windows on the message (R111), its
outputs as the tap code of R113, and the code's linearity. -/

namespace Sys2Proof
namespace Machine

open Sys2Proof.Spec

/-! ### The message bits (41_convolutional_encoder.md R110) -/

theorem extractLsb'_one {w : Nat} (x : BitVec w) (k : Nat) : x.extractLsb' k 1 = BitVec.ofBool (x.getLsbD k) := by
  ext j hj
  obtain rfl : j = 0 := by omega
  simp

/-- Side by side, byte `byte` of the seven has `6 - byte` bytes to its right. -/
theorem getLsbD_messageBytes (m : Vector Byte 7) {byte place : Nat} (hbyte : byte < 7) (hplace : place < 8) :
    (m[0] ++ m[1] ++ m[2] ++ m[3] ++ m[4] ++ m[5] ++ m[6]).getLsbD (8 * (6 - byte) + place) =
      m[byte].getLsbD place := by
  simp only [BitVec.getLsbD_append]
  interval_cases byte
  all_goals
    simp (disch := omega) only [if_pos, if_neg]
    congr 1
    omega

theorem mbit_eq_messageBit (m : Vector Byte 7) (i : Nat) : mbit m i = BitVec.ofBool (messageBit m i) := by
  unfold mbit messageBit
  split
  case isTrue hbyte =>
    have hplace : 55 - i = 8 * (6 - i / 8) + (7 - i % 8) := by omega
    rw [decide_eq_true (by omega), Bool.true_and, hplace, getLsbD_messageBytes m hbyte (by omega), extractLsb'_one]
  case isFalse hbyte =>
    rw [decide_eq_false (by omega)]
    rfl

theorem messageBit_xor (m1 m2 : Vector Byte 7) (i : Nat) :
    messageBit (Vector.zipWith (· ^^^ ·) m1 m2) i = (messageBit m1 i ^^ messageBit m2 i) := by
  simp only [messageBit, Vector.getElem_zipWith, ← BitVec.xor_append, BitVec.getLsbD_xor, Bool.and_xor_distrib_left]

/-! ### The registers (R111) -/

theorem getLsbD_shiftIn (r : BitVec 32) (d : Bool) (k : Nat) (hk : k < 32) :
    (shiftIn r (BitVec.ofBool d)).getLsbD k = if k = 0 then d else r.getLsbD (k - 1) := by
  cases k with
  | zero => simp [shiftIn]
  | succ k => simp [shiftIn, hk, BitVec.getLsbD_eq_getElem (show k < 32 by omega)]

/-- After `n` steps bit `k` of a register is the message bit injected `k` steps before the last. -/
theorem getLsbD_register (m : Vector Byte 7) (n k : Nat) (hk : k < 32) :
    (((List.range n).map (mbit m)).foldl shiftIn 0).getLsbD k = (decide (k < n) && messageBit m (n - 1 - k)) := by
  induction n generalizing k with
  | zero => simp
  | succ n ih =>
    rw [List.range_succ, List.map_append, List.foldl_append, List.map_singleton, List.foldl_cons, List.foldl_nil,
      mbit_eq_messageBit, getLsbD_shiftIn _ _ _ hk]
    cases k with
    | zero => simp
    | succ k =>
      have hsub : n + 1 - 1 - (k + 1) = n - 1 - k := by omega
      rw [if_neg k.succ_ne_zero, Nat.add_sub_cancel, ih k (by omega), hsub, decide_eq_decide.mpr Nat.succ_lt_succ_iff]

/-! ### The outputs (R113) -/

/-- A running XOR is the parity of the number of its true terms. -/
theorem foldl_xor_eq_bodd (f : Nat → Bool) (l : List Nat) (a : Bool) :
    l.foldl (fun acc k => acc ^^ f k) a = (a ^^ (l.filter f).length.bodd) := by
  induction l generalizing a with
  | nil => simp
  | cons k l ih =>
    rw [List.foldl_cons, ih]
    cases h : f k <;> simp [h]

theorem parity_eq_bodd {w : Nat} (x : BitVec w) : parity x = BitVec.ofBool (popcount x).bodd := by
  rw [parity, Nat.mod_two_of_bodd]
  cases (popcount x).bodd <;> rfl

/-- The parity of a masked register is the XOR of its bits at the mask's taps. -/
theorem parity_and_eq_xor_taps {w : Nat} (x mask : BitVec w) :
    parity (x &&& mask) = BitVec.ofBool
      (((List.range w).filter fun k => mask.getLsbD k).foldl (fun acc k => acc ^^ x.getLsbD k) false) := by
  simp only [parity_eq_bodd, popcount, BitVec.getLsbD_and, foldl_xor_eq_bodd, Bool.false_xor, List.filter_filter]

theorem taps0_eq : taps0 = (List.range 32).filter fun k => Config.poly0.getLsbD k := by decide

theorem taps1_eq : taps1 = (List.range 32).filter fun k => Config.poly1.getLsbD k := by decide

theorem parity_register (m : Vector Byte 7) (mask : BitVec 32) (i : Nat) :
    parity (((List.range (i + 1)).map (mbit m)).foldl shiftIn 0 &&& mask) =
      BitVec.ofBool (tapXor ((List.range 32).filter fun k => mask.getLsbD k) m i) := by
  rw [parity_and_eq_xor_taps]
  refine congrArg BitVec.ofBool (List.foldl_ext _ _ _ fun acc k hk => ?_)
  have hk : k < 32 := List.mem_range.mp (List.mem_of_mem_filter hk)
  rw [getLsbD_register m _ k hk, Nat.add_sub_cancel, decide_eq_decide.mpr Nat.lt_succ_iff]

/-- The closed form of R113. -/
theorem convolve_fec (m : Vector Byte 7) (i : Fin 81) :
    (convolve m).2.2[2 * i.val] = BitVec.ofBool (tapXor taps0 m i) ∧
      (convolve m).2.2[2 * i.val + 1] = BitVec.ofBool (tapXor taps1 m i) := by
  obtain ⟨-, -, hout⟩ := convLoop_spec (messageWindow m) 0
  have hwindow : (messageWindow m).take (i + 1) = (List.range (i + 1)).map (mbit m) := by
    rw [messageWindow, ← List.map_take, List.take_range, min_eq_left i.isLt]
  obtain ⟨h0, h1⟩ := hout i (by simp [messageWindow])
  simp only [hwindow, parity_register, ← taps0_eq, ← taps1_eq] at h0 h1
  simp only [convolve_eq, Vector.getElem_ofFn, List.getD_eq_getElem?_getD, h0, h1, Option.getD_some, and_self]

theorem getLsbD_convolve_register (m : Vector Byte 7) (k : Fin 32) :
    (convolve m).1.getLsbD k = messageBit m (80 - k) := by
  obtain ⟨hr0, -, -⟩ := convLoop_spec (messageWindow m) 0
  rw [convolve_eq, hr0, messageWindow, getLsbD_register m 81 k k.isLt, decide_eq_true (by omega), Bool.true_and]

/-! ### The operation (R112) -/

theorem exec_conv_of_msg {s : State} {m : Vector Byte 7} (h : s.msg = m.map some) :
    exec .conv s = .next (ended .ok (storeConv (convolve m) s)) :=
  congrArg (settle s) (convBody_some h)

/-- Settles O24: the registers are equal and windows on the message, and the outputs are the parities of their taps. -/
theorem convIsTheTapCode : Obligations.ConvIsTheTapCode := by
  intro s m hmsg
  refine ⟨(convolve m).1, (convolve m).2.2, ?_, convolve_fec m, getLsbD_convolve_register m⟩
  rw [exec_conv_of_msg hmsg, storeConv, ← convolve_registers]

/-! ### Linearity (R113) -/

theorem foldl_xor_xor (f g : Nat → Bool) (l : List Nat) (a b : Bool) :
    l.foldl (fun acc k => acc ^^ (f k ^^ g k)) (a ^^ b) =
      (l.foldl (fun acc k => acc ^^ f k) a ^^ l.foldl (fun acc k => acc ^^ g k) b) := by
  induction l generalizing a b with
  | nil => rfl
  | cons k l ih => simp only [List.foldl_cons, ← ih, Bool.xor_assoc, Bool.xor_left_comm b]

theorem tapXor_xor (taps : List Nat) (m1 m2 : Vector Byte 7) (i : Nat) :
    tapXor taps (Vector.zipWith (· ^^^ ·) m1 m2) i = (tapXor taps m1 i ^^ tapXor taps m2 i) := by
  simp only [tapXor, messageBit_xor, Bool.and_xor_distrib_left]
  exact foldl_xor_xor _ _ taps false false

/-- Every element of the FEC stream is the same XOR of message bits in every message. -/
theorem convolve_fec_eq_tapXor {k : Nat} (hk : k < 162) :
    ∃ taps i, ∀ m, (convolve m).2.2[k] = BitVec.ofBool (tapXor taps m i) := by
  obtain ⟨i, rfl | rfl⟩ := Nat.even_or_odd' k
  · exact ⟨taps0, i, fun m => (convolve_fec m ⟨i, by omega⟩).1⟩
  · exact ⟨taps1, i, fun m => (convolve_fec m ⟨i, by omega⟩).2⟩

theorem convolve_fec_xor (m1 m2 : Vector Byte 7) :
    (convolve (Vector.zipWith (· ^^^ ·) m1 m2)).2.2 = Vector.zipWith (· ^^^ ·) (convolve m1).2.2 (convolve m2).2.2 := by
  ext1 k hk
  obtain ⟨taps, i, output⟩ := convolve_fec_eq_tapXor hk
  rw [Vector.getElem_zipWith, output, output, output, tapXor_xor, BitVec.ofBool_xor_ofBool]

/-- Settles O25: an XOR of message bits is linear in the message. -/
theorem convIsLinear : Obligations.ConvIsLinear := by
  intro s1 s2 s3 m1 m2 h1 h2 h3
  refine ⟨_, _, _, (convolve m1).2.2, (convolve m2).2.2, exec_conv_of_msg h1, exec_conv_of_msg h2,
    exec_conv_of_msg h3, rfl, rfl, ?_⟩
  rw [← convolve_fec_xor]
  rfl

end Machine
end Sys2Proof
end

section
/-! PROOFS. The interleaver, the sync merge and the whole encoder (42_interleaver_sync_merge.md): bit reversal (R120 to
R122), the interleaved stream (R124), the symbols (R128, R129), and `ENCODE` (R130 to R132). -/

namespace Sys2Proof
namespace Machine

open Sys2Proof.Spec

/-! ### Bit reversal (42_interleaver_sync_merge.md R120, R121) -/

/-- Checked on every byte and bit place. -/
theorem getLsbD_brev8 (x : Byte) (k : Fin 8) : (brev8 x).getLsbD k = x.getLsbD (7 - k) := by
  revert x k
  decide +kernel

/-- Bit reversal is its own inverse. -/
theorem brev8_involutive : Function.Involutive brev8 := by
  intro x
  refine BitVec.eq_of_getLsbD_eq fun k hk => ?_
  have outer := getLsbD_brev8 (brev8 x) ⟨k, hk⟩
  have inner := getLsbD_brev8 x ⟨7 - k, by omega⟩
  rw [outer, inner, Nat.sub_sub_self (Nat.le_of_lt_succ hk)]

theorem exec_brev_of_unwritten {s : State} (h : s.brv = none) : exec .brev s = .next (ended .notReady s) := by
  have hbody : brevBody s = .error .notReady := by simp only [brevBody, h]
  exact congrArg (settle s) hbody

theorem exec_brev_of_brv {s : State} {x : Byte} (h : s.brv = some x) :
    exec .brev s = .next (ended .ok { s with brv := some (brev8 x) }) := by
  have hbody : brevBody s = .ok { s with brv := some (brev8 x) } := by simp only [brevBody, h]
  exact congrArg (settle s) hbody

/-- Settles O26: the second reversal undoes the first. -/
theorem brevReversesBrv : Obligations.BrevReversesBrv := by
  refine fun s => ⟨exec_brev_of_unwritten, fun x hx => ⟨brev8 x, getLsbD_brev8 x, exec_brev_of_brv hx, ?_⟩⟩
  rw [exec_brev_of_brv (x := brev8 x) rfl, brev8_involutive, ← hx]
  rfl

/-! ### The accepted scan indices (R122) -/

theorem accepted_eq : accepted = (List.range 256).filter fun j => scanTarget j < 162 := rfl

theorem mem_accepted {j : Nat} : j ∈ accepted ↔ j < 256 ∧ scanTarget j < 162 := by
  rw [accepted_eq, List.mem_filter, List.mem_range, decide_eq_true_iff]

theorem length_accepted : accepted.length = 162 := by decide +kernel

theorem scanTarget_injOn {i j : Nat} (hi : i < 256) (hj : j < 256) (h : scanTarget i = scanTarget j) : i = j := by
  have hbytes : BitVec.ofNat 8 i = BitVec.ofNat 8 j := brev8_involutive.injective (BitVec.eq_of_toNat_eq h)
  have hvalues := congrArg BitVec.toNat hbytes
  rwa [BitVec.toNat_ofNat, BitVec.toNat_ofNat, Nat.mod_eq_of_lt hi, Nat.mod_eq_of_lt hj] at hvalues

theorem nodup_accepted_targets : (accepted.map scanTarget).Nodup := by
  refine List.Nodup.map_on (fun i hi j hj => ?_) (List.nodup_range.filter _)
  exact scanTarget_injOn (mem_accepted.mp hi).1 (mem_accepted.mp hj).1

/-- The targets of the accepted indices are 162 different positions below 162, so they are all of them. -/
theorem accepted_targets_perm : (accepted.map scanTarget).Perm (List.range 162) := by
  have hbelow : accepted.map scanTarget ⊆ List.range 162 := by
    intro r hr
    obtain ⟨j, hj, rfl⟩ := List.mem_map.mp hr
    exact List.mem_range.mpr (mem_accepted.mp hj).2
  refine (List.subperm_of_subset nodup_accepted_targets hbelow).perm_of_length_le ?_
  rw [List.length_range, List.length_map, length_accepted]

/-- Settles O27: the indices are counted, and their targets are all positions because bit reversal is injective. -/
theorem interleaverIsAPermutation : Obligations.InterleaverIsAPermutation :=
  ⟨length_accepted, by decide +kernel, accepted_targets_perm⟩

/-! ### The interleaved stream (R124) -/

/-- The array `ILV` leaves: at a position, the FEC bit whose index is the rank of that position among the targets. -/
def interleavedStream (fec : Vector Bit 162) : Vector Bit 162 :=
  Vector.ofFn fun r => fec[(accepted.map scanTarget).idxOf r.val]?.getD 0

/-- Every position is a target, so no element of the old array survives. -/
theorem interleave_eq (fec : Vector Bit 162) (old : Vector (Reg 1) 162) :
    interleave fec old = (interleavedStream fec).map some := by
  ext1 r hr
  have htarget : r ∈ accepted.map scanTarget := accepted_targets_perm.mem_iff.mpr (List.mem_range.mpr hr)
  have hrank : accepted.findIdx? (fun j => scanTarget j = r) = some ((accepted.map scanTarget).idxOf r) := by
    obtain ⟨j, hj, hjr⟩ := List.mem_map.mp htarget
    rw [List.idxOf, List.findIdx_map]
    exact List.findIdx?_eq_some_of_exists ⟨j, hj, decide_eq_true hjr⟩
  have hvalue := interleave_getElem fec old r hr
  rw [← accepted_eq, hrank] at hvalue
  rw [hvalue, Vector.getElem_map, interleavedStream, Vector.getElem_ofFn]

/-- FEC bit `p` stands at the target of the `p`-th accepted index. -/
theorem interleavedStream_getElem_scanTarget (fec : Vector Bit 162) (p : Fin 162) :
    ∃ j, accepted[p.val]? = some j ∧ (interleavedStream fec)[scanTarget j]? = some fec[p] := by
  have hp : p.val < accepted.length := length_accepted.symm ▸ p.isLt
  have htarget : scanTarget accepted[p.val] < 162 := (mem_accepted.mp (List.getElem_mem hp)).2
  have hrank : (accepted.map scanTarget).idxOf (scanTarget accepted[p.val]) = p.val := by
    have hself := nodup_accepted_targets.idxOf_getElem p.val (by rwa [List.length_map])
    rwa [List.getElem_map] at hself
  refine ⟨accepted[p.val], List.getElem?_eq_getElem hp, ?_⟩
  rw [Vector.getElem?_eq_getElem htarget, interleavedStream, Vector.getElem_ofFn, hrank,
    Vector.getElem?_eq_getElem p.isLt, Option.getD_some]
  rfl

/-- An array with an unwritten element is no operand (60_exceptions.md R190). -/
theorem written_eq_none_of_exists {w n : Nat} {v : Vector (Reg w) n} (h : ∃ i : Fin n, v[i] = none) :
    written v = none := by
  obtain ⟨i, hi⟩ := h
  exact (written_eq_none v).mpr ⟨i, i.isLt, hi⟩

theorem exec_ilv_of_fec {s : State} {fec : Vector Bit 162} (h : s.fec = fec.map some) :
    exec .ilv s = .next (ended .ok { s with ilv := (interleavedStream fec).map some }) := by
  rw [← interleave_eq fec s.ilv]
  exact congrArg (settle s) (ilvBody_some h)

/-- Settles O28: the array is the interleaved stream, whatever stood there. -/
theorem ilvPermutesTheStream : Obligations.IlvPermutesTheStream := by
  refine fun s => ⟨fun hunwritten => ?_, fun fec hfec => ?_⟩
  · exact congrArg (settle s) (ilvBody_none (written_eq_none_of_exists hunwritten))
  · exact ⟨interleavedStream fec, exec_ilv_of_fec hfec, interleavedStream_getElem_scanTarget fec⟩

/-! ### The merge (R128, R129) -/

theorem toNat_symbolOf (sync data : Bit) : (symbolOf sync data).toNat = sync.toNat + 2 * data.toNat := by
  revert sync data
  decide

theorem exec_merge_of_ilv {s : State} {ilv : Vector Bit 162} (h : s.ilv = ilv.map some) :
    exec .merge s = .next (ended .ok { s with sym := (merge s.cfg.sync ilv).map some }) :=
  congrArg (settle s) (mergeBody_some h)

/-- Settles O29: the sync bit and the data bit are the two binary digits of the symbol. -/
theorem mergeFormsTheSymbols : Obligations.MergeFormsTheSymbols := by
  refine fun s => ⟨fun hunwritten => ?_, fun ilv hilv => ⟨merge s.cfg.sync ilv, exec_merge_of_ilv hilv, fun i => ?_⟩⟩
  · exact congrArg (settle s) (mergeBody_none (written_eq_none_of_exists hunwritten))
  · have hsym : (merge s.cfg.sync ilv)[i].toNat = s.cfg.sync[i].toNat + 2 * ilv[i].toNat := by
      simp [merge, toNat_symbolOf]
    have hsync : s.cfg.sync[i].toNat < 2 := s.cfg.sync[i].isLt
    omega

/-! ### `PACK` and `ENCODE` by what `PACK` computes (R130, R131) -/

/-- What `PACK` computes from the state: its four results, or the error it ends with (40_source_coding.md R99). -/
def packedFrom (s : State) : Except ErrCode Packed :=
  match packOperands s with
  | none => .error .notReady
  | some o => packResult o

theorem packBody_eq (s : State) : packBody s = (packedFrom s).map fun r => storePacked r s := by
  unfold packBody packedFrom
  cases packOperands s <;> rfl

theorem packedFrom_error_ne_ok {s : State} {e : ErrCode} (h : packedFrom s = .error e) : e ≠ .ok := by
  unfold packedFrom at h
  split at h
  · cases h
    nofun
  · rcases packResult_error h with rfl | rfl | rfl | rfl <;> nofun

section
variable {s : State} {e : ErrCode} {r : Packed}

theorem packBody_of_error (h : packedFrom s = .error e) : packBody s = .error e := by
  rw [packBody_eq, h]
  rfl

theorem packBody_of_packed (h : packedFrom s = .ok r) : packBody s = .ok (storePacked r s) := by
  rw [packBody_eq, h]
  rfl

theorem exec_pack_of_error (h : packedFrom s = .error e) : exec .pack s = .next (ended e s) :=
  congrArg (settle s) (packBody_of_error h)

theorem exec_encode_of_error (h : packedFrom s = .error e) : exec .encode s = .next (ended e s) :=
  congrArg (settle s) (encodeBody_error (packBody_of_error h))

theorem exec_pack_of_packed (h : packedFrom s = .ok r) : exec .pack s = .next (ended .ok (storePacked r s)) :=
  congrArg (settle s) (packBody_of_packed h)

/-- `ENCODE` stores the results of `PACK`, their convolution, its interleaved stream, and the symbols. -/
theorem exec_encode_of_packed (h : packedFrom s = .ok r) :
    exec .encode s = .next (ended .ok (storeEncoded r (interleavedStream (convolve r.msg).2.2) s)) := by
  obtain ⟨ilv, hilv, hencode⟩ := encodeBody_ok (packBody_of_packed h)
  have hstream : interleavedStream (convolve r.msg).2.2 = ilv :=
    (Vector.map_inj_right fun _ _ => Option.some.inj).mp ((interleave_eq _ s.ilv).symm.trans hilv)
  rw [hstream]
  exact congrArg (settle s) hencode

end

/-- Settles O30: the three operations after `PACK` find their operands written, and store what `ENCODE` stores. -/
theorem encodeEqualsTheSequence : Obligations.EncodeEqualsTheSequence := by
  refine ⟨fun s t hpack hok => ?_, fun s t hpack hfail => ?_⟩
  · cases h : packedFrom s with
    | error e =>
      cases (exec_pack_of_error h).symm.trans hpack
      exact absurd hok (packedFrom_error_ne_ok h)
    | ok r =>
      cases (exec_pack_of_packed h).symm.trans hpack
      exact ⟨_, _, _, exec_conv_of_msg rfl, exec_ilv_of_fec rfl, exec_merge_of_ilv rfl, exec_encode_of_packed h, rfl⟩
  · cases h : packedFrom s with
    | error e =>
      cases (exec_pack_of_error h).symm.trans hpack
      exact ⟨exec_encode_of_error h, rfl⟩
    | ok r =>
      cases (exec_pack_of_packed h).symm.trans hpack
      exact absurd rfl hfail

/-- Settles O31: legal operands pass every test of `PACK`, and the results that follow are whole arrays. -/
theorem encodeCompletes : Obligations.EncodeCompletes := by
  intro s pwr clen call grid v hreads hp hv hl
  have hpacked : packedFrom s = .ok (assemble v.toList grid pwr.toNat) := by
    simp only [packedFrom, packOperands_of_reads hreads]
    rw [packResult_of_values hp (callsignValues_of_reads hv), if_pos (locatorOk_iff.mpr hl)]
  exact ⟨_, exec_encode_of_packed hpacked, rfl, ⟨_, rfl⟩, allWritten_map_some _, allWritten_map_some _,
    allWritten_map_some _, allWritten_map_some _, rfl⟩

/-! ### `ENCODE` as a function of its operands (R132) -/

/-- The leading elements of two arrays are equal when they are equal one by one. -/
theorem take_toList_congr {α : Type} {n m : Nat} {u v : Vector α n} (h : ∀ k : Fin n, k.val < m → u[k] = v[k]) :
    u.toList.take m = v.toList.take m := by
  refine List.ext_getElem (by simp) fun k hk _ => ?_
  rw [List.length_take, Vector.length_toList, lt_min_iff] at hk
  obtain ⟨hkm, hkn⟩ := hk
  simpa using h ⟨k, hkn⟩ hkm

/-- `PACK` reads only the power, the length, the locator, and the callsign up to the length. -/
theorem packedFrom_congr {s1 s2 : State} (hpwr : s1.pwr = s2.pwr) (hclen : s1.clen = s2.clen)
    (hgrid : s1.grid = s2.grid)
    (hcall : ∀ n, s1.clen = some n → ∀ k : Fin 16, k.val < n.toNat → s1.call[k] = s2.call[k]) :
    packedFrom s1 = packedFrom s2 := by
  suffices packOperands s1 = packOperands s2 by rw [packedFrom, packedFrom, this]
  refine Option.ext fun o => ?_
  rw [packOperands_eq_some, packOperands_eq_some, ← hpwr, ← hclen, ← hgrid]
  refine and_congr_right fun _ => and_congr_right fun hn => ?_
  rw [take_toList_congr (hcall o.clen hn)]

/-- Settles O32: what `ENCODE` stores is a function of what `PACK` computes and the sync vector. -/
theorem encodeDependsOnOperandsAlone : Obligations.EncodeDependsOnOperandsAlone := by
  intro s1 s2 t1 t2 hsync hpwr hclen hgrid hcall h1 h2
  have hsame := packedFrom_congr hpwr hclen hgrid hcall
  cases h : packedFrom s1 with
  | error e =>
    cases (exec_encode_of_error h).symm.trans h1
    cases (exec_encode_of_error (hsame.symm.trans h)).symm.trans h2
    exact ⟨rfl, fun hok => absurd hok (packedFrom_error_ne_ok h)⟩
  | ok r =>
    cases (exec_encode_of_packed h).symm.trans h1
    cases (exec_encode_of_packed (hsame.symm.trans h)).symm.trans h2
    refine ⟨rfl, fun _ => ⟨⟨_, rfl⟩, ?_, rfl, rfl, rfl, rfl, rfl, rfl, rfl, rfl⟩⟩
    show (merge s1.cfg.sync _).map some = (merge s2.cfg.sync _).map some
    rw [hsync]

end Machine
end Sys2Proof
end

section
/-! PROOFS. The dividers (43_synth_dividers.md): the range test (R141), the fields of a ratio and their widths (R142 to
R144), the image in numbers (R145), and `PLLCFG` and `MSCFG` (R146, R147). -/

namespace Sys2Proof
namespace Machine

open Sys2Proof.Spec

/-! ### The range test and the divider fields (43_synth_dividers.md R141 to R144) -/

theorem ratioOk_iff_ratioLegal (a b c aMin aMax : Nat) :
    ratioOk a b c aMin aMax = true ↔ ratioLegal aMin aMax a b c := by
  simp only [ratioOk_iff, Nat.cast_le, Int.natCast_nonneg, true_and]

/-- The branch of R142 on a zero numerator is the case of the general one with quotient and remainder 0. -/
theorem pfields_eq (a b c : Nat) : pfields a b c = (fieldP1 a b c, fieldP2 b c, c) := by
  unfold pfields
  split_ifs with hb
  · subst hb
    unfold fieldP1 fieldP2
    simp
  · rfl

theorem fieldP2_eq_mod (b c : Nat) : fieldP2 b c = 128 * b % c := by
  rw [fieldP2, Nat.mod_eq_sub_mul_div]

theorem fieldP2_lt (b : Nat) {c : Nat} (hc : 0 < c) : fieldP2 b c < c :=
  fieldP2_eq_mod b c ▸ Nat.mod_lt _ hc

/-- From `a = 4` on, the subtraction of R142 does not stop at 0. -/
theorem cast_fieldP1 {a : Nat} (ha : 4 ≤ a) (b c : Nat) :
    (fieldP1 a b c : Int) = 128 * a + (128 * b / c : Nat) - 512 := by
  unfold fieldP1
  generalize 128 * b / c = quotient
  omega

/-- A fraction below one adds at most 127 to `128 * a - 512`. -/
theorem fieldP1_le_of_lt {a b c : Nat} (ha : a ≤ 2048) (hbc : b < c) : fieldP1 a b c ≤ 261759 := by
  have hquotient : 128 * b / c < 128 := Nat.div_lt_of_lt_mul (by omega)
  unfold fieldP1
  omega

/-- Settles O37: the fields are quotient and remainder of `128 * b` by `c`, and `a` is between 4 and 2048. -/
theorem dividerFieldsFit : Obligations.DividerFieldsFit := by
  rintro a b c ⟨⟨ha, ha'⟩, ⟨hc, hc'⟩, -⟩
  have hp2 : fieldP2 b c < c := fieldP2_lt b hc
  exact ⟨pfields_eq a b c, fieldP2_eq_mod b c, hp2, by omega, by omega, cast_fieldP1 ha b c, fieldP1_le_of_lt ha'⟩

/-! ### The image in numbers (30_encoding.md R75, 43_synth_dividers.md R145) -/

theorem extractLsb'_ofNat {w k n : Nat} (h : k + n ≤ w) (x : Nat) :
    (BitVec.ofNat w x).extractLsb' k n = BitVec.ofNat n (x / 2 ^ k) := by
  refine BitVec.eq_of_getLsbD_eq fun i hi => ?_
  have hw : k + i < w := by omega
  rw [BitVec.getLsbD_extractLsb', BitVec.getLsbD_ofNat, BitVec.getLsbD_ofNat, Nat.testBit_div_two_pow, Nat.add_comm i]
  simp [hi, hw]

theorem ofNat_append_ofNat {m n y : Nat} (x : Nat) (hy : y < 2 ^ n) :
    BitVec.ofNat m x ++ BitVec.ofNat n y = BitVec.ofNat (m + n) (x * 2 ^ n + y) := by
  refine BitVec.eq_of_getLsbD_eq fun i hi => ?_
  rw [BitVec.getLsbD_append, BitVec.getLsbD_ofNat, BitVec.getLsbD_ofNat, BitVec.getLsbD_ofNat, Nat.mul_comm,
    Nat.testBit_two_pow_mul_add x hy]
  split_ifs with hlow
  · simp [hlow, hi]
  · have hhigh : i - n < m := by omega
    simp [hhigh, hi]

section
variable {p1 p2 : Nat} (h1 : p1 < 2 ^ 18) (h2 : p2 < 2 ^ 20) (p3 : Nat) (base : Byte) (s : State)
include h1 h2

/-- Only bytes 2 and 5 are put together from parts; there the widths of `P1` and `P2` are needed. -/
theorem imageBytes_ofNat :
    imageBytes (BitVec.ofNat 18 p1) (BitVec.ofNat 20 p2) (BitVec.ofNat 20 p3) = imageNumbers p1 p2 p3 := by
  have hbyte2 : 0#6 ++ BitVec.ofNat 2 (p1 / 65536) = BitVec.ofNat 8 (0 * 4 + p1 / 65536) :=
    ofNat_append_ofNat 0 (by omega)
  have hbyte5 : BitVec.ofNat 4 (p3 / 65536) ++ BitVec.ofNat 4 (p2 / 65536) =
      BitVec.ofNat 8 (p3 / 65536 * 16 + p2 / 65536) := ofNat_append_ofNat _ (by omega)
  simp [imageBytes, imageNumbers, extractLsb'_ofNat, hbyte2, hbyte5]

theorem storeImage_ofNat :
    storeImage base (BitVec.ofNat 18 p1) (BitVec.ofNat 20 p2) (BitVec.ofNat 20 p3) s =
      imageStored base p1 p2 p3 s := by
  rw [storeImage, imageBytes_ofNat h1 h2, imageStored]

theorem writeImage_ofNat :
    writeImage base (BitVec.ofNat 18 p1) (BitVec.ofNat 20 p2) (BitVec.ofNat 20 p3) s =
      busWrites (imageWrites base (imageNumbers p1 p2 p3)) (imageStored base p1 p2 p3 s) := by
  rw [writeImage, imageBytes_ofNat h1 h2, storeImage_ofNat h1 h2]

end

theorem writeEvents_imageWrites (base : Byte) (p1 p2 p3 : Nat) :
    writeEvents (imageWrites base (imageNumbers p1 p2 p3)) = imageEvents base p1 p2 p3 := by
  simp [imageWrites, imageEvents, writeEvents, List.finRange]

/-- After as many accesses as there are answers in `used`, the answers behind them are left. -/
theorem busAdvance_eq_busAfter {s : State} {used rest : List BusReply} (h : s.busReplies = used ++ rest)
    (events : List BusEvent) : busAdvance events used.length s = busAfter events used.length rest s := by
  rw [busAdvance, busAfter, h, List.drop_left]

/-- A bus that completes eight writes takes a whole image. -/
theorem busWrites_image_done {s : State} {ds : List Byte} {rest : List BusReply} (hlen : ds.length = 8)
    (hbus : s.busReplies = ds.map .done ++ rest) (base : Byte) (p1 p2 p3 : Nat) :
    busWrites (imageWrites base (imageNumbers p1 p2 p3)) s =
      (busAfter (imageEvents base p1 p2 p3) 8 rest s, true) := by
  have hadvance := busAdvance_eq_busAfter hbus (imageEvents base p1 p2 p3)
  rw [List.length_map, hlen] at hadvance
  rw [busWrites_done _ s ds rest (by rw [hlen, imageWrites_length]) hbus, imageWrites_length,
    writeEvents_imageWrites, hadvance]

/-! ### The divider procedure (43_synth_dividers.md R146) -/

section
variable {base : Byte} {a b c aMin aMax : Nat} {s : State}

theorem configureDivider_of_not_legal (h : ¬ ratioLegal aMin aMax a b c) :
    configureDivider base aMin aMax a b c s = (s, .outOfRange) :=
  if_neg (mt (ratioOk_iff_ratioLegal ..).mp h)

theorem configureDivider_of_wide (h : ratioLegal aMin aMax a b c) (hwide : 2 ^ 18 ≤ fieldP1 a b c) :
    configureDivider base aMin aMax a b c s = (s, .unrepresentable) := by
  rw [configureDivider, if_pos ((ratioOk_iff_ratioLegal ..).mpr h), Int.toNat_natCast, pfields_eq]
  exact if_neg (Nat.not_lt.mpr hwide)

/-- On a legal ratio whose `P1` fits, the procedure is the bus writes of its image. -/
theorem configureDivider_of_fits (h : ratioLegal aMin aMax a b c) (hfits : fieldP1 a b c < 2 ^ 18) {t : State}
    {completed : Bool}
    (hwrites : busWrites (imageWrites base (imageNumbers (fieldP1 a b c) (fieldP2 b c) c))
      (imageStored base (fieldP1 a b c) (fieldP2 b c) c s) = (t, completed)) :
    configureDivider base aMin aMax a b c s = (t, busResult completed) := by
  have ⟨_, ⟨hc, hc'⟩, _⟩ := h
  have hp2 : fieldP2 b c < 2 ^ 20 := (fieldP2_lt b hc).trans (by omega)
  rw [configureDivider, if_pos ((ratioOk_iff_ratioLegal ..).mpr h), Int.toNat_natCast, pfields_eq]
  simp only [if_pos hfits, writeImage_ofNat hfits hp2, hwrites]

theorem configureDivider_of_done {ds : List Byte} {rest : List BusReply} (h : ratioLegal aMin aMax a b c)
    (hfits : fieldP1 a b c < 2 ^ 18) (hlen : ds.length = 8) (hbus : s.busReplies = ds.map .done ++ rest) :
    configureDivider base aMin aMax a b c s =
      (busAfter (imageEvents base (fieldP1 a b c) (fieldP2 b c) c) 8 rest
        (imageStored base (fieldP1 a b c) (fieldP2 b c) c s), .ok) :=
  configureDivider_of_fits h hfits (busWrites_image_done (s := imageStored base _ _ c s) hlen hbus ..)

end

/-! ### `PLLCFG` and `MSCFG` end as the procedure does (R146, R147) -/

theorem pllBaseOf_eq {cfg : Config} {pll : Bit} {base : Byte} (h : cfg.par.raw.pllBase[pll.toNat]? = some base) :
    pllBaseOf cfg pll = base := by
  obtain ⟨_, hbase⟩ := Vector.getElem?_eq_some_iff.mp h
  exact hbase

section
variable {s t : State} {a b c : BitVec 32} {e : ErrCode} (ha : s.a = some a) (hb : s.b = some b) (hc : s.c = some c)
include ha hb hc

theorem ratioOperands_of_written : ratioOperands s = some (a.toNat, b.toNat, c.toNat) := by
  simp only [ratioOperands, ha, hb, hc]

theorem exec_pllcfg_of_written {pll : Bit}
    (h : configureDivider (pllBaseOf s.cfg pll) 15 90 a.toNat b.toNat c.toNat s = (t, e)) :
    exec (.pllcfg pll) s = .next (ended e t) := by
  show execPllcfg pll s = _
  simp only [execPllcfg, ratioOperands_of_written ha hb hc, h]
  rfl

theorem exec_mscfg_of_written {ch : BitVec 2} {base : Byte} (hbase : msBaseOf s.cfg ch = some base)
    (h : configureDivider base 4 2048 a.toNat b.toNat c.toNat s = (t, e)) :
    exec (.mscfg ch) s = .next (ended e t) := by
  show execMscfg ch s = _
  simp only [execMscfg, hbase, ratioOperands_of_written ha hb hc, h]
  rfl

end

/-- Settles O33: the procedure at the base of the PLL. -/
theorem pllcfgWritesTheImage : Obligations.PllcfgWritesTheImage := by
  intro s pll base a b c ds rest hbase ha hb hc hlegal hfits hlen hbus
  refine exec_pllcfg_of_written ha hb hc ?_
  rw [pllBaseOf_eq hbase]
  exact configureDivider_of_done hlegal hfits hlen hbus

/-- Settles O34: the procedure at the base of the channel. -/
theorem mscfgWritesTheImage : Obligations.MscfgWritesTheImage := by
  intro s ch base a b c ds rest hbase ha hb hc hlegal hfits hlen hbus
  exact exec_mscfg_of_written ha hb hc hbase (configureDivider_of_done hlegal hfits hlen hbus)

/-- Settles O35: both tests stand before the first update of the state, and a fraction below one passes the second. -/
theorem dividerErrorsWriteNothing : Obligations.DividerErrorsWriteNothing := by
  refine ⟨ratioOk_iff_ratioLegal, ?_, ?_⟩
  · rintro a b c ⟨⟨-, ha⟩, -⟩ hbc
    exact (fieldP1_le_of_lt ha hbc).trans_lt (by decide)
  · intro s a b c ha hb hc
    refine ⟨fun pll => ⟨fun hillegal => ?_, fun hlegal hwide => ?_⟩, fun ch hch => ?_⟩
    · exact exec_pllcfg_of_written ha hb hc (configureDivider_of_not_legal hillegal)
    · exact exec_pllcfg_of_written ha hb hc (configureDivider_of_wide hlegal hwide)
    · obtain ⟨base, hbase⟩ := msBaseOf_isSome (cfg := s.cfg) hch
      refine ⟨fun hillegal => ?_, fun hlegal hwide => ?_⟩
      · exact exec_mscfg_of_written ha hb hc hbase (configureDivider_of_not_legal hillegal)
      · exact exec_mscfg_of_written ha hb hc hbase (configureDivider_of_wide hlegal hwide)

end Machine
end Sys2Proof
end

section
/-! PROOFS. `DRVCFG`, `TONE` and `FOUT` (44_synth_driver_tone.md): the control byte (R161), the band table and the two
halves of `TONE` (R165 to R167), and the frequency formula (R170). -/

namespace Sys2Proof
namespace Machine

open Sys2Proof.Spec

/-! ### `DRVCFG` (44_synth_driver_tone.md R161) -/

/-- The five sub-fields are `DRVOP` whole; checked on every kept bit and operand. -/
theorem drvop_fields_append (kept : Bit) (d : BitVec 7) :
    kept ++ drvIntMode d ++ drvPllSource d ++ drvInvert d ++ drvInputSource d ++ drvDrive d = (kept ++ d : Byte) := by
  revert kept d
  decide +kernel

/-- The control byte in numbers (30_encoding.md R76). -/
theorem controlByte_eq_ofNat (old : Byte) (d : BitVec 7) :
    controlByte old d = BitVec.ofNat 8 ((old.getLsbD 7).toNat * 128 + d.toNat) := by
  have hkept : old.extractLsb' 7 1 = BitVec.ofNat 1 (old.getLsbD 7).toNat := by
    refine BitVec.eq_of_getLsbD_eq fun i hi => ?_
    obtain rfl : i = 0 := Nat.lt_one_iff.mp hi
    rw [BitVec.getLsbD_extractLsb', BitVec.getLsbD_ofNat]
    cases old.getLsbD 7 <;> rfl
  calc controlByte old d = old.extractLsb' 7 1 ++ d := drvop_fields_append _ d
    _ = BitVec.ofNat 1 (old.getLsbD 7).toNat ++ BitVec.ofNat 7 d.toNat := by
      rw [hkept, BitVec.ofNat_toNat, BitVec.setWidth_eq]
    _ = BitVec.ofNat 8 ((old.getLsbD 7).toNat * 128 + d.toNat) := ofNat_append_ofNat _ d.isLt

section
variable {s : State} {old x : Byte} {rest : List BusReply} (reg : Byte) (d : BitVec 7)

theorem configureDriver_of_read_failed (hbus : s.busReplies = .failed :: rest) :
    configureDriver reg d s = (busAfter [] 1 rest s, .busFault) := by
  have hadvance := busAdvance_eq_busAfter (used := [.failed]) hbus []
  simp only [configureDriver, memRead_failed reg hbus]
  exact congrArg (·, ErrCode.busFault) hadvance

theorem configureDriver_of_write_failed (hbus : s.busReplies = .done old :: .failed :: rest) :
    configureDriver reg d s = (busAfter [.read reg old] 2 rest s, .busFault) := by
  have hbus' : (busAdvance [.read reg old] 1 s).busReplies = .failed :: rest := by
    rw [busAdvance_busReplies, hbus, List.drop_one, List.tail_cons]
  have hadvance := busAdvance_eq_busAfter (used := [.done old, .failed]) hbus [.read reg old]
  simp only [configureDriver, memRead_done reg hbus, memWrite_failed reg _ hbus', busAdvance_busAdvance]
  exact congrArg (·, ErrCode.busFault) hadvance

theorem configureDriver_of_done (hbus : s.busReplies = .done old :: .done x :: rest) :
    configureDriver reg d s = (busAfter [.read reg old, .write reg (controlByte old d)] 2 rest s, .ok) := by
  have hbus' : (busAdvance [.read reg old] 1 s).busReplies = .done x :: rest := by
    rw [busAdvance_busReplies, hbus, List.drop_one, List.tail_cons]
  have hadvance := busAdvance_eq_busAfter (used := [.done old, .done x]) hbus
    [.read reg old, .write reg (controlByte old d)]
  simp only [configureDriver, memRead_done reg hbus, memWrite_done reg _ hbus', busAdvance_busAdvance]
  exact congrArg (·, ErrCode.ok) hadvance

end

section
variable {s : State} {ch : BitVec 2} {reg : Byte} (hreg : clkCtrlOf s.cfg ch = some reg)
include hreg

theorem exec_drvcfg_of_unwritten (h : s.drvop = none) : exec (.drvcfg ch) s = .next (ended .notReady s) := by
  show execDrvcfg ch s = _
  simp only [execDrvcfg, hreg, h]
  rfl

theorem exec_drvcfg_of_written {d : BitVec 7} {t : State} {e : ErrCode} (hd : s.drvop = some d)
    (h : configureDriver reg d s = (t, e)) : exec (.drvcfg ch) s = .next (ended e t) := by
  show execDrvcfg ch s = _
  simp only [execDrvcfg, hreg, hd, h]
  rfl

end

/-- Settles O38: the driver procedure at the control register of the channel, for each answer of the bus. -/
theorem drvcfgKeepsTheEnableBit : Obligations.DrvcfgKeepsTheEnableBit := by
  intro s ch reg hreg
  refine ⟨exec_drvcfg_of_unwritten hreg, fun d old x rest hd => ⟨fun hbus => ?_, fun hbus => ?_, fun hbus => ?_⟩⟩
  · rw [← controlByte_eq_ofNat]
    exact exec_drvcfg_of_written hreg hd (configureDriver_of_done reg d hbus)
  · exact exec_drvcfg_of_written hreg hd (configureDriver_of_read_failed reg d hbus)
  · exact exec_drvcfg_of_written hreg hd (configureDriver_of_write_failed reg d hbus)

/-! ### The band table (44_synth_driver_tone.md R165) -/

/-- A table whose keys are distinct answers with any record it holds. -/
theorem lookup_of_mem_of_nodup_keys {α β : Type} [BEq α] [LawfulBEq α] {l : List (α × β)} {k : α} {v : β}
    (hkeys : (l.map Prod.fst).Nodup) (hmem : (k, v) ∈ l) : l.lookup k = some v := by
  obtain ⟨before, after, rfl⟩ := List.append_of_mem hmem
  refine List.lookup_eq_some_iff.mpr ⟨before, after, rfl, fun p hp => ?_⟩
  rw [List.map_append, List.map_cons, List.nodup_middle, List.nodup_cons] at hkeys
  obtain ⟨hfresh, -⟩ := hkeys
  have hkey : p.1 ∈ before.map Prod.fst := List.mem_map_of_mem hp
  have hne : k ≠ p.1 := fun h => hfresh (List.mem_append_left _ (h ▸ hkey))
  simpa using hne

section
variable {cfg : Config} {key : Byte} {e : BandEntry}

theorem bandLookup_of_mem (h : (key, e) ∈ cfg.par.raw.bandTab) : bandLookup cfg key = some e := by
  obtain ⟨-, -, -, -, -, -, hkeys, -⟩ := cfg.par.ok
  exact lookup_of_mem_of_nodup_keys hkeys h

theorem bandLookup_of_absent (h : ∀ e, (key, e) ∉ cfg.par.raw.bandTab) : bandLookup cfg key = none :=
  Option.eq_none_iff_forall_ne_some.mpr fun e he => h e (bandLookup_mem he)

theorem bandEntry_wf_of_mem (h : (key, e) ∈ cfg.par.raw.bandTab) : e.wf := by
  obtain ⟨-, -, -, -, -, -, -, hwf, -⟩ := cfg.par.ok
  exact hwf _ h

end

/-! ### `TONE` ends as its procedure does (44_synth_driver_tone.md R167) -/

section
variable {s : State} {ch : BitVec 2} {msBase band : Byte} {offs corr : Nat} (pll : Bit)
  (hms : msBaseOf s.cfg ch = some msBase) (hband : s.band = some band) (hoffs : s.offs = some offs)
  (hcorr : s.corr = some corr)
include hband hoffs hcorr

theorem toneOperands_of_written : toneOperands s = some (band, offs, corr) := by
  simp only [toneOperands, hband, hoffs, hcorr]

include hms

theorem exec_tone_of_absent (h : ∀ e, (band, e) ∉ s.cfg.par.raw.bandTab) :
    exec (.tone ch pll) s = .next (ended .unsupportedBand s) := by
  show execTone ch pll s = _
  simp only [execTone, hms, toneOperands_of_written hband hoffs hcorr, bandLookup_of_absent h]
  rfl

theorem exec_tone_of_mem {e : BandEntry} {t : State} {code : ErrCode} (hmem : (band, e) ∈ s.cfg.par.raw.bandTab)
    (h : configureTone msBase (pllBaseOf s.cfg pll) e offs corr s = (t, code)) :
    exec (.tone ch pll) s = .next (ended code t) := by
  show execTone ch pll s = _
  simp only [execTone, hms, toneOperands_of_written hband hoffs hcorr, bandLookup_of_mem hmem, h]
  rfl

end

/-- Settles O41: the lookup stands before the first half. -/
theorem toneUnsupportedBand : Obligations.ToneUnsupportedBand := by
  intro s ch pll band offs corr hch hband hoffs hcorr habsent
  obtain ⟨msBase, hms⟩ := msBaseOf_isSome (cfg := s.cfg) hch
  exact exec_tone_of_absent pll hms hband hoffs hcorr habsent

/-! ### The two halves of `TONE` (44_synth_driver_tone.md R166, R167) -/

/-- In integer mode nothing is added to `128 * a - 512` (43_synth_dividers.md R142). -/
@[simp] theorem fieldP1_zero (a c : Nat) : fieldP1 a 0 c = 128 * a - 512 := by
  unfold fieldP1
  rw [Nat.mul_zero, Nat.zero_div, Nat.add_zero]

@[simp] theorem fieldP2_zero (c : Nat) : fieldP2 0 c = 0 := by
  simp [fieldP2]

theorem ratioLegal_integer {a aMin aMax : Nat} (h : aMin ≤ a ∧ a ≤ aMax) : ratioLegal aMin aMax a 0 1 :=
  ⟨h, by decide, Nat.zero_le _⟩

/-- The numerator of `TONE` may be negative, and then no ratio of naturals (43_synth_dividers.md R141). -/
theorem configureDivider_of_numerator_out {base : Byte} {aMin aMax a c : Nat} {b : Int} {s : State}
    (h : b < 0 ∨ 0xFFFFF < b) : configureDivider base aMin aMax a b c s = (s, .outOfRange) := by
  refine if_neg fun hok => ?_
  obtain ⟨-, -, hlow, hhigh⟩ := (ratioOk_iff ..).mp hok
  exact h.elim (not_lt.mpr hlow) (not_lt.mpr hhigh)

/-- The state between the halves of `TONE`, where its first image is written and stored (70_reset_and_hazards.md
R218). -/
def toneHalf (msBase : Byte) (msDiv : Nat) (rest : List BusReply) (s : State) : State :=
  busAfter (imageEvents msBase (128 * msDiv - 512) 0 1) 8 rest (imageStored msBase (128 * msDiv - 512) 0 1 s)

/-- After eight completed writes, what is left of `TONE` is the divider procedure at the PLL. -/
theorem configureTone_of_done {s : State} {ds : List Byte} {rest : List BusReply} {e : BandEntry} (hwf : e.wf)
    (hlen : ds.length = 8) (hbus : s.busReplies = ds.map .done ++ rest) (msBase pllBase : Byte) (offs corr : Nat) :
    configureTone msBase pllBase e offs corr s =
      configureDivider pllBase 15 90 e.pllA (toneNumerator s.cfg e offs corr) e.pllC
        (toneHalf msBase e.msDiv rest s) := by
  obtain ⟨-, -, -, hdiv, -⟩ := hwf
  have hfits : fieldP1 e.msDiv 0 1 < 2 ^ 18 := (fieldP1_le_of_lt hdiv.2 Nat.zero_lt_one).trans_lt (by decide)
  have hfirst : configureDivider msBase 4 2048 e.msDiv 0 1 s = (toneHalf msBase e.msDiv rest s, .ok) := by
    have hdone := configureDivider_of_done (base := msBase) (ratioLegal_integer hdiv) hfits hlen hbus
    rwa [fieldP1_zero, fieldP2_zero] at hdone
  simp only [configureTone, hfirst]

/-- The second image takes the place of the first in the result registers, and its events follow those of the first. -/
theorem imageWrite_after_toneHalf (base msBase : Byte) (p1 p2 p3 msDiv : Nat) (rest rest' : List BusReply)
    (events : List BusEvent) (n : Nat) (s : State) :
    busAfter events n rest' (imageStored base p1 p2 p3 (toneHalf msBase msDiv rest s)) =
      busAfter (imageEvents msBase (128 * msDiv - 512) 0 1 ++ events) (8 + n) rest' (imageStored base p1 p2 p3 s) := by
  simp only [toneHalf, busAfter, imageStored, List.append_assoc, Nat.add_assoc]

/-- The band table keeps the integer part and the denominator legal, so only the numerator is in question. -/
theorem ratioLegal_tone {e : BandEntry} (hwf : e.wf) {b : Nat} (hb : b ≤ 0xFFFFF) :
    ratioLegal 15 90 e.pllA b e.pllC := by
  obtain ⟨ha, -, hc, -⟩ := hwf
  exact ⟨ha, hc, hb⟩

/-- Settles O39: eight writes of the first image, then eight of the second. -/
theorem toneWritesBothImages : Obligations.ToneWritesBothImages := by
  intro s ch pll msBase pllBase band offs corr e b ds rest hms hpll hband hoffs hcorr hmem hb hhigh hfits hlen hbus
  have hwf : e.wf := bandEntry_wf_of_mem hmem
  have hnumerator : toneNumerator s.cfg e offs corr = b := hb.symm
  have hsplit : s.busReplies = (ds.take 8).map .done ++ ((ds.drop 8).map .done ++ rest) := by
    rw [hbus, ← List.append_assoc, ← List.map_append, List.take_append_drop]
  have hfirst : (ds.take 8).length = 8 := by rw [List.length_take, hlen]; rfl
  have hsecond : (ds.drop 8).length = 8 := by rw [List.length_drop, hlen]
  refine exec_tone_of_mem pll hms hband hoffs hcorr hmem ?_
  rw [pllBaseOf_eq hpll, configureTone_of_done hwf hfirst hsplit, hnumerator,
    configureDivider_of_done (ratioLegal_tone hwf hhigh) hfits hsecond rfl, imageWrite_after_toneHalf]

/-- Settles O40: both tests of the second half fail in the state between the halves. -/
theorem toneFailsHalfWay : Obligations.ToneFailsHalfWay := by
  intro s ch pll msBase band offs corr e b ds rest hms hband hoffs hcorr hmem hb hlen hbus
  have hwf : e.wf := bandEntry_wf_of_mem hmem
  have hnumerator : toneNumerator s.cfg e offs corr = b := hb.symm
  refine ⟨fun hout => ?_, fun hlow hhigh hwide => ?_⟩
  · refine exec_tone_of_mem pll hms hband hoffs hcorr hmem ?_
    rw [configureTone_of_done hwf hlen hbus, hnumerator]
    exact configureDivider_of_numerator_out hout
  · refine exec_tone_of_mem pll hms hband hoffs hcorr hmem ?_
    rw [configureTone_of_done hwf hlen hbus, hnumerator, ← Int.toNat_of_nonneg hlow]
    exact configureDivider_of_wide (ratioLegal_tone hwf (Int.toNat_le.mpr hhigh)) hwide

/-! ### `FOUT` (44_synth_driver_tone.md R170) -/

/-- The quotient of two fractions, each extended by its denominator. -/
theorem fout_of_domain (vco : Rat) {p m : Ratio} (hp : p.c ≠ 0) (hm : m.c ≠ 0) (h : m.a * m.c + m.b ≠ 0) :
    fout vco p m = some (vco * (p.a + p.b / p.c : Rat) / (m.a + m.b / m.c : Rat)) := by
  have hpc : (p.c : Rat) ≠ 0 := Nat.cast_ne_zero.mpr hp
  have hmc : (m.c : Rat) ≠ 0 := Nat.cast_ne_zero.mpr hm
  rw [fout, if_pos ⟨hp, hm, h⟩, add_div' _ _ _ hpc, add_div' _ _ _ hmc]
  field_simp

/-- Settles O44: the formula on the domain, and the test of the domain outside it. -/
theorem frequencyFormula : Obligations.FrequencyFormula := by
  refine fun vco p m => ⟨fout_of_domain vco, fun hout => if_neg ?_⟩
  rintro ⟨hp, hm, hsum⟩
  rcases hout with h | h | h
  · exact hp h
  · exact hm h
  · exact hsum h

end Machine
end Sys2Proof
end

section
/-! PROOFS. Exceptions (60_exceptions.md): which codes an operation can end with (R180 to R183) and what a failure
leaves unchanged (R184), the illegal byte (R189), unwritten operands (R190), and bus failures with the stopped state
(R191). -/

namespace Sys2Proof
namespace Machine

open Sys2Proof.Spec

/-! ### The result codes of an operation (60_exceptions.md R180 to R184) -/

theorem imageEnds_code {e : ErrCode} {k : Nat} (h : imageEnds e k) : e = .ok ∨ e = .busFault :=
  h.imp And.left And.left

/-- An effect that ends with neither `OK` nor `BusFault` is a failure before the first update, or one of `TONE` between
its two images. -/
theorem Effect.eq_endState_or_toneHalf {i : Instr} {s t : State} (h : Effect i s t) (hok : t.err ≠ .ok)
    (hbus : t.err ≠ .busFault) :
    t = endState t.err s ∨ (∃ ch pll, i = .tone ch pll) ∧ (t.err = .outOfRange ∨ t.err = .unrepresentable) := by
  cases h with
  | failed => exact .inl rfl
  | packed | coded | interleaved | merged | encoded | reversed => exact absurd rfl hok
  | driver _ _ _ _ _ _ _ _ he => exact (he.elim hok hbus).elim
  | image _ _ _ _ _ _ _ _ _ _ he | tone _ _ _ _ _ _ _ _ _ _ _ _ _ _ _ _ _ he =>
    exact ((imageEnds_code he).elim hok hbus).elim
  | toneHalf _ _ _ _ _ _ hi _ _ he => exact .inr ⟨hi, he⟩

/-- Settles O15: the premise on `TONE` shuts out the failure between its images. -/
theorem failureChangesOnlyErr : Obligations.FailureChangesOnlyErr := by
  intro i s t hexec hok hbus htone
  rcases (effect_of_exec hexec).eq_endState_or_toneHalf hok hbus with hkept | ⟨⟨ch, pll, hi⟩, hhalf⟩
  · exact hkept
  · obtain ⟨hrange, hwide⟩ := htone ch pll hi
    exact (hhalf.elim hrange hwide).elim

/-- Settles O16, by the effects of an operation: the errors before the first update are those of `failsWith`, and the
other effects end as an image, the driver procedure, or the second half of `TONE` does. -/
theorem eachOperationRaisesOnlyItsErrors : Obligations.EachOperationRaisesOnlyItsErrors := by
  intro i s t hwf hexec
  cases effect_of_exec hexec with
  | packed | coded | interleaved | merged | encoded | reversed => exact .inl rfl
  | failed e _ _ hraise =>
    rcases hraise with hready | ⟨-, hillegal⟩ | hpack | ⟨hi, he⟩ | htone
    · exact .inr (.inl hready)
    · exact absurd hwf (hillegal ▸ Bool.false_ne_true)
    · exact .inr (.inr (.inl hpack))
    · exact .inr (.inr (.inr (.inl ⟨hi, he.imp_right .inl⟩)))
    · exact .inr (.inr (.inr (.inr (.inr htone))))
  | image _ _ _ _ _ _ _ hi _ _ he =>
    exact (imageEnds_code he).imp_right fun hbus => .inr (.inr (.inl ⟨hi, .inr (.inr hbus)⟩))
  | tone _ _ _ _ _ _ _ _ _ _ _ _ hi _ _ _ _ he =>
    exact (imageEnds_code he).imp_right fun hbus => .inr (.inr (.inl ⟨.inr (.inr hi), .inr (.inr hbus)⟩))
  | toneHalf _ _ _ _ _ _ hi _ _ he =>
    exact .inr (.inr (.inr (.inl ⟨.inr (.inr hi), he.imp_right .inl⟩)))
  | driver _ _ _ _ _ _ hi _ he =>
    exact he.imp_right fun hbus => .inr (.inr (.inr (.inl ⟨hi, hbus⟩)))

/-! ### Unwritten operands (60_exceptions.md R190) -/

section
variable {s : State}

theorem packedFrom_of_unwritten
    (h : s.pwr = none ∨ s.clen = none ∨ (∃ k : Fin 4, s.grid[k] = none) ∨
      ∃ n, s.clen = some n ∧ ∃ k : Fin 16, k.val < n.toNat ∧ s.call[k] = none) :
    packedFrom s = .error .notReady := by
  suffices packOperands s = none by simp only [packedFrom, this]
  refine Option.eq_none_iff_forall_ne_some.mpr fun o ho => ?_
  obtain ⟨hpwr, hclen, hcall, hgrid⟩ := (packOperands_eq_some s o).mp ho
  rcases h with hnone | hnone | ⟨k, hnone⟩ | ⟨n, hn, k, hk, hnone⟩
  · simp [hnone] at hpwr
  · simp [hnone] at hclen
  · simp [hgrid] at hnone
  · cases hn.symm.trans hclen
    have hread : none ∈ s.call.toList.take o.clen.toNat :=
      List.mem_take_iff_getElem.mpr ⟨k, by simp [hk], by simpa using hnone⟩
    simp [hcall] at hread

theorem ratioOperands_of_unwritten (h : s.a = none ∨ s.b = none ∨ s.c = none) : ratioOperands s = none := by
  unfold ratioOperands
  split
  next ha hb hc => simp [ha, hb, hc] at h
  next => rfl

theorem toneOperands_of_unwritten (h : s.band = none ∨ s.offs = none ∨ s.corr = none) : toneOperands s = none := by
  unfold toneOperands
  split
  next hband hoffs hcorr => simp [hband, hoffs, hcorr] at h
  next => rfl

theorem exec_pllcfg_of_unwritten (h : ratioOperands s = none) (pll : Bit) :
    exec (.pllcfg pll) s = .next (ended .notReady s) := by
  show execPllcfg pll s = _
  simp only [execPllcfg, h]
  rfl

theorem exec_mscfg_of_unwritten (h : ratioOperands s = none) {ch : BitVec 2} (hch : ch ≠ 3) :
    exec (.mscfg ch) s = .next (ended .notReady s) := by
  obtain ⟨base, hbase⟩ := msBaseOf_isSome (cfg := s.cfg) hch
  show execMscfg ch s = _
  simp only [execMscfg, hbase, h]
  rfl

theorem exec_tone_of_unwritten (h : toneOperands s = none) {ch : BitVec 2} (hch : ch ≠ 3) (pll : Bit) :
    exec (.tone ch pll) s = .next (ended .notReady s) := by
  obtain ⟨msBase, hms⟩ := msBaseOf_isSome (cfg := s.cfg) hch
  show execTone ch pll s = _
  simp only [execTone, hms, h]
  rfl

end

/-- Settles O14: each operation looks for its operands first, and an unwritten element is a missing operand. -/
theorem unwrittenOperandIsNotReady : Obligations.UnwrittenOperandIsNotReady := by
  intro s
  refine ⟨fun h => ?pack, fun h => ?conv, fun h => ?ilv, fun h => ?merge, exec_brev_of_unwritten, fun h => ?ratio,
    fun h ch hch => ?drvcfg, fun h ch pll hch => ?tone⟩
  case pack =>
    have hpack := packedFrom_of_unwritten h
    exact ⟨exec_pack_of_error hpack, exec_encode_of_error hpack⟩
  case conv => exact congrArg (settle s) (convBody_none (written_eq_none_of_exists h))
  case ilv => exact congrArg (settle s) (ilvBody_none (written_eq_none_of_exists h))
  case merge => exact congrArg (settle s) (mergeBody_none (written_eq_none_of_exists h))
  case ratio =>
    have hratio := ratioOperands_of_unwritten h
    exact ⟨exec_pllcfg_of_unwritten hratio, fun _ => exec_mscfg_of_unwritten hratio⟩
  case drvcfg =>
    obtain ⟨reg, hreg⟩ := clkCtrlOf_isSome (cfg := s.cfg) hch
    exact exec_drvcfg_of_unwritten hreg h
  case tone => exact exec_tone_of_unwritten (toneOperands_of_unwritten h) hch pll

/-! ### Bus failures inside an image (60_exceptions.md R191) -/

/-- A failure after as many writes as there are completed answers leaves the events of those writes. -/
theorem busWrites_take_failed {ws : List (Byte × Byte)} {s : State} {ds : List Byte} {rest : List BusReply}
    (hlen : ds.length < ws.length) (hbus : s.busReplies = ds.map .done ++ .failed :: rest) :
    busWrites ws s = (busAfter ((writeEvents ws).take ds.length) (ds.length + 1) rest s, false) := by
  have hsplit : ws.take ds.length ++ ws[ds.length] :: ws.drop (ds.length + 1) = ws := by
    rw [List.getElem_cons_drop, List.take_append_drop]
  have htaken : (ws.take ds.length).length = ds.length := by rw [List.length_take, min_eq_left hlen.le]
  have hadvance := busAdvance_eq_busAfter (used := ds.map .done ++ [.failed]) (by simpa using hbus)
    (writeEvents (ws.take ds.length))
  have hfailed :=
    busWrites_failed (ws.take ds.length) ws[ds.length] (ws.drop (ds.length + 1)) s ds rest htaken.symm hbus
  rw [List.length_append, List.length_map, List.length_singleton] at hadvance
  rw [hsplit, htaken, hadvance, writeEvents, List.map_take] at hfailed
  exact hfailed

section
variable {base : Byte} {a b c aMin aMax : Nat} {s : State} {ds : List Byte} {rest : List BusReply}

theorem configureDivider_of_failed (h : ratioLegal aMin aMax a b c) (hfits : fieldP1 a b c < 2 ^ 18)
    (hlen : ds.length < 8) (hbus : s.busReplies = ds.map .done ++ .failed :: rest) :
    configureDivider base aMin aMax a b c s =
      (busAfter ((imageEvents base (fieldP1 a b c) (fieldP2 b c) c).take ds.length) (ds.length + 1) rest
        (imageStored base (fieldP1 a b c) (fieldP2 b c) c s), .busFault) := by
  rw [← writeEvents_imageWrites]
  exact configureDivider_of_fits h hfits
    (busWrites_take_failed (by rwa [imageWrites_length]) (s := imageStored base _ _ c s) hbus)

/-- A failure inside the first image is the failure of `TONE`. -/
theorem configureTone_of_failed {e : BandEntry} (hwf : e.wf) (hlen : ds.length < 8)
    (hbus : s.busReplies = ds.map .done ++ .failed :: rest) (msBase pllBase : Byte) (offs corr : Nat) :
    configureTone msBase pllBase e offs corr s =
      (busAfter ((imageEvents msBase (128 * e.msDiv - 512) 0 1).take ds.length) (ds.length + 1) rest
        (imageStored msBase (128 * e.msDiv - 512) 0 1 s), .busFault) := by
  obtain ⟨-, -, -, hdiv, -⟩ := hwf
  have hfits : fieldP1 e.msDiv 0 1 < 2 ^ 18 := (fieldP1_le_of_lt hdiv.2 Nat.zero_lt_one).trans_lt (by decide)
  have hfirst := configureDivider_of_failed (base := msBase) (ratioLegal_integer hdiv) hfits hlen hbus
  rw [fieldP1_zero, fieldP2_zero, Nat.cast_zero] at hfirst
  simp only [configureTone, hfirst]

end

/-- Settles O36: the divider procedure at the base of the PLL or of the channel, on a bus that fails. -/
theorem busFaultKeepsTheWritesMade : Obligations.BusFaultKeepsTheWritesMade := by
  intro s base a b c ds rest ha hb hc hfits hlen hbus
  refine ⟨fun pll hbase hlegal => ?_, fun ch hbase hlegal => ?_⟩
  · refine exec_pllcfg_of_written ha hb hc ?_
    rw [pllBaseOf_eq hbase]
    exact configureDivider_of_failed hlegal hfits hlen hbus
  · exact exec_mscfg_of_written ha hb hc hbase (configureDivider_of_failed hlegal hfits hlen hbus)

/-- Settles O42: the failure falls into the first image, or, after eight writes, into the second. -/
theorem toneBusFaults : Obligations.ToneBusFaults := by
  intro s ch pll msBase pllBase band offs corr e ds rest hms hpll hband hoffs hcorr hmem hbus
  have hwf : e.wf := bandEntry_wf_of_mem hmem
  refine ⟨fun hlen => ?first, fun b hlow hhigh hb hmax hfits => ?second⟩
  case first =>
    exact exec_tone_of_mem pll hms hband hoffs hcorr hmem (configureTone_of_failed hwf hlen hbus ..)
  case second =>
    have hnumerator : toneNumerator s.cfg e offs corr = b := hb.symm
    have hsplit : s.busReplies = (ds.take 8).map .done ++ ((ds.drop 8).map .done ++ .failed :: rest) := by
      rw [hbus, ← List.append_assoc, ← List.map_append, List.take_append_drop]
    have hfirst : (ds.take 8).length = 8 := by rw [List.length_take, min_eq_left hlow]
    have hsecond : (ds.drop 8).length = ds.length - 8 := List.length_drop
    have hevents : (imageEvents msBase (128 * e.msDiv - 512) 0 1).take ds.length =
        imageEvents msBase (128 * e.msDiv - 512) 0 1 := List.take_of_length_le hlow
    have hcount : 8 + (ds.length - 8 + 1) = ds.length + 1 := by omega
    refine exec_tone_of_mem pll hms hband hoffs hcorr hmem ?_
    rw [pllBaseOf_eq hpll, configureTone_of_done hwf hfirst hsplit, hnumerator,
      configureDivider_of_failed (ratioLegal_tone hwf hmax) hfits (by omega) rfl, imageWrite_after_toneHalf, hsecond,
      hcount, List.take_append, hevents]
    rfl

/-! ### The illegal byte and the stopped state (60_exceptions.md R189, R191) -/

/-- Settles O5: `BUSY` rises and falls again, and `ERR` is all that stays. -/
theorem illegalByteOnlySetsErr : Obligations.IllegalByteOnlySetsErr := by
  intro s v rest e hin hidle hrunning hdecode
  rw [step_write hin hidle, hostWrite_cmd, command_illegal (s := setInputs rest s) hrunning hdecode]
  simp only [endWith, setBusy, setInputs, hidle]

/-- Settles O6: the stopped block takes the write and decodes nothing. -/
theorem stoppedBlockIgnoresCommands : Obligations.StoppedBlockIgnoresCommands := by
  intro s v rest hin hidle hstopped
  rw [step_write hin hidle, hostWrite_cmd, command_stopped (s := setInputs rest s) hstopped]
  rfl

/-- No host write reaches a register that the host cannot write, `STATUS` apart (10_state.md R28). -/
theorem regValue_writeReg_readOnly {q : RegName} (hq : q.readWrite = false) (hs : q ≠ .status) (r : RegName) (v : Nat)
    (s : State) : regValue (writeReg r v s) q = regValue s q := by
  by_cases hqr : q = r
  · rw [writeReg_readOnly (hqr ▸ hq)]
  · exact regValue_writeReg_ne hqr hs v s

/-- Settles O7, by the cases of a step: what is left to a stopped block are its host accesses without commands. -/
theorem stoppedUntilReset : Obligations.StoppedUntilReset := by
  intro s t hstopped hnoreset hstep
  rcases step_cases hstep with ⟨-, rfl⟩ | ⟨input, rest, hinputs, -, hact⟩
  · exact ⟨hstopped, rfl, fun _ _ _ => rfl⟩
  rcases hact with ⟨rfl, -⟩ | ⟨n, -, rfl⟩ | ⟨n, v, -, rfl | ⟨r, -, rfl⟩ | ⟨hrunning, -⟩ | ⟨i, hrunning, -⟩⟩
  · exact absurd hinputs (hnoreset rest)
  · exact ⟨hstopped, rfl, fun q _ _ => (regValue_hostRead n _ q).trans (regValue_setInputs rest s q)⟩
  · exact ⟨hstopped, rfl, fun q _ _ => regValue_setInputs rest s q⟩
  · obtain ⟨herr, -, hlog, -⟩ := writeReg_others r v (setInputs rest s)
    exact ⟨herr.trans hstopped, hlog, fun q hq hs =>
      (regValue_writeReg_readOnly hq hs r v _).trans (regValue_setInputs rest s q)⟩
  · exact absurd hstopped hrunning
  · exact absurd hstopped hrunning

end Machine
end Sys2Proof
end

section
/-! PROOFS. Reset and hazards (70_reset_and_hazards.md): every operation ends (R224), the two units commute (R213), and
the valid flags do not track staleness (R216). -/

namespace Sys2Proof
namespace Machine

open Sys2Proof.Spec

/-! ### The two units commute (70_reset_and_hazards.md R213) -/

/-- The state `s` with the results of the ENC unit and `STATUS` taken from `x`: what an ENC operation can change. -/
def takeEnc (x s : State) : State :=
  { s with
    csc := x.csc, grd := x.grd, lpc := x.lpc, msg := x.msg, r0 := x.r0, r1 := x.r1, fec := x.fec, ilv := x.ilv,
    sym := x.sym, brv := x.brv, err := x.err, busy := x.busy }

/-- The state `s` with the results of the SYN unit, the bus and `STATUS` taken from `x`: what a SYN operation can
change. -/
def takeSyn (x s : State) : State :=
  { s with
    p1 := x.p1, p2 := x.p2, p3 := x.p3, imgbase := x.imgbase, img := x.img, busLog := x.busLog,
    busReplies := x.busReplies, busCount := x.busCount, err := x.err, busy := x.busy }

/-- The two units' parts of the state are disjoint, `STATUS` apart. -/
theorem takeEnc_takeSyn (x y s : State) :
    { takeEnc x (takeSyn y s) with err := .ok, busy := false } =
      { takeSyn y (takeEnc x s) with err := .ok, busy := false } := rfl

/-- An ENC operation changes nothing but the ENC unit's part of the state. -/
theorem eq_takeEnc_of_exec {i : Instr} {s t : State} (hi : isEnc i = true) (h : exec i s = .next t) :
    t = takeEnc t s := by
  have hsyn := (unitsShareNoRegister i s t h).1 hi
  have hops := operandRegistersAreNeverWritten i s t h
  cases t
  simp only [takeEnc, State.mk.injEq, true_and]
  tauto

/-- A SYN operation changes nothing but the SYN unit's part of the state. -/
theorem eq_takeSyn_of_exec {j : Instr} {s t : State} (hj : isEnc j = false) (h : exec j s = .next t) :
    t = takeSyn t s := by
  have henc := (unitsShareNoRegister j s t h).2 hj
  have hops := operandRegistersAreNeverWritten j s t h
  cases t
  simp only [takeSyn, State.mk.injEq, true_and]
  tauto

/-! An ENC operation neither reads nor writes the SYN unit's part: it does the same whatever that part holds. -/

section
variable (x : State) {s t : State}

/-- A body that carries the SYN unit's part along gives an operation that does. -/
theorem settle_takeSyn {body : State → Except ErrCode State}
    (hbody : body (takeSyn x s) = (body s).map (takeSyn x)) :
    settle s (body s) = .next t →
      settle (takeSyn x s) (body (takeSyn x s)) = .next (endState t.err (takeSyn x t)) := by
  rw [hbody]
  cases body s with
  | error e | ok u =>
    rintro ⟨⟩
    rfl

theorem packBody_takeSyn (s : State) : packBody (takeSyn x s) = (packBody s).map (takeSyn x) := by
  have hpacked : packedFrom (takeSyn x s) = packedFrom s := rfl
  rw [packBody_eq, packBody_eq, hpacked]
  cases packedFrom s <;> rfl

theorem convBody_takeSyn (s : State) : convBody (takeSyn x s) = (convBody s).map (takeSyn x) := by
  have hmsg : (takeSyn x s).msg = s.msg := rfl
  unfold convBody
  rw [hmsg]
  cases written s.msg <;> rfl

theorem ilvBody_takeSyn (s : State) : ilvBody (takeSyn x s) = (ilvBody s).map (takeSyn x) := by
  have hfec : (takeSyn x s).fec = s.fec := rfl
  have hilv : (takeSyn x s).ilv = s.ilv := rfl
  unfold ilvBody
  rw [hfec, hilv]
  cases written s.fec with
  | none => rfl
  | some fec => simp only [Except.map, takeSyn]

theorem mergeBody_takeSyn (s : State) : mergeBody (takeSyn x s) = (mergeBody s).map (takeSyn x) := by
  have hilv : (takeSyn x s).ilv = s.ilv := rfl
  unfold mergeBody
  rw [hilv]
  cases written s.ilv <;> rfl

theorem brevBody_takeSyn (s : State) : brevBody (takeSyn x s) = (brevBody s).map (takeSyn x) := by
  have hbrv : (takeSyn x s).brv = s.brv := rfl
  unfold brevBody
  rw [hbrv]
  cases s.brv <;> rfl

theorem bind_takeSyn {body : State → Except ErrCode State}
    (hbody : ∀ s, body (takeSyn x s) = (body s).map (takeSyn x)) (r : Except ErrCode State) :
    (r.map (takeSyn x)).bind body = (r.bind body).map (takeSyn x) := by
  cases r with
  | error e => rfl
  | ok s => exact hbody s

theorem encodeBody_takeSyn (s : State) : encodeBody (takeSyn x s) = (encodeBody s).map (takeSyn x) := by
  unfold encodeBody
  rw [packBody_takeSyn]
  refine bind_takeSyn x (fun s => ?_) _
  rw [convBody_takeSyn]
  refine bind_takeSyn x (fun s => ?_) _
  rw [ilvBody_takeSyn]
  exact bind_takeSyn x (mergeBody_takeSyn x) _

theorem exec_takeSyn {i : Instr} (hi : isEnc i = true) (h : exec i s = .next t) :
    exec i (takeSyn x s) = .next (endState t.err (takeSyn x t)) := by
  cases i with
  | pack => exact settle_takeSyn x (packBody_takeSyn x s) h
  | conv => exact settle_takeSyn x (convBody_takeSyn x s) h
  | ilv => exact settle_takeSyn x (ilvBody_takeSyn x s) h
  | merge => exact settle_takeSyn x (mergeBody_takeSyn x s) h
  | encode => exact settle_takeSyn x (encodeBody_takeSyn x s) h
  | brev => exact settle_takeSyn x (brevBody_takeSyn x s) h
  | pllcfg | mscfg | drvcfg | tone => cases hi

end

/-! A SYN operation neither reads nor writes the ENC unit's part: it does the same whatever that part holds. -/

section
variable (x : State)

theorem memWrite_takeEnc (addr v : Byte) (s : State) :
    memWrite addr v (takeEnc x s) = (memWrite addr v s).map (takeEnc x) id := by
  have hreply : nextReply (takeEnc x s) = nextReply s := rfl
  unfold memWrite
  rw [hreply]
  cases nextReply s <;> rfl

theorem memRead_takeEnc (addr : Byte) (s : State) :
    memRead addr (takeEnc x s) = (memRead addr s).map (takeEnc x) id := by
  have hreply : nextReply (takeEnc x s) = nextReply s := rfl
  unfold memRead
  rw [hreply]
  cases nextReply s <;> rfl

theorem busWrites_takeEnc (ws : List (Byte × Byte)) (s : State) :
    busWrites ws (takeEnc x s) = (busWrites ws s).map (takeEnc x) id := by
  induction ws generalizing s with
  | nil => rfl
  | cons w ws ih =>
    simp only [busWrites, memWrite_takeEnc]
    rcases memWrite w.1 w.2 s with ⟨t, _ | _⟩
    · rfl
    · exact ih t

theorem writeImage_takeEnc (base : Byte) (p1 : BitVec 18) (p2 p3 : BitVec 20) (s : State) :
    writeImage base p1 p2 p3 (takeEnc x s) = (writeImage base p1 p2 p3 s).map (takeEnc x) id :=
  busWrites_takeEnc x (imageWrites base (imageBytes p1 p2 p3)) (storeImage base p1 p2 p3 s)

theorem configureDivider_takeEnc (base : Byte) (aMin aMax a : Nat) (b : Int) (c : Nat) (s : State) :
    configureDivider base aMin aMax a b c (takeEnc x s) =
      (configureDivider base aMin aMax a b c s).map (takeEnc x) id := by
  simp only [configureDivider, writeImage_takeEnc]
  split_ifs <;> rfl

theorem configureDriver_takeEnc (reg : Byte) (d : BitVec 7) (s : State) :
    configureDriver reg d (takeEnc x s) = (configureDriver reg d s).map (takeEnc x) id := by
  simp only [configureDriver, memRead_takeEnc]
  rcases memRead reg s with ⟨t, _ | old⟩
  · rfl
  · simp only [Prod.map, id, memWrite_takeEnc]

/-- The second half of `TONE` starts where the first ended, and reads the configuration of the state before it. -/
theorem configureTone_takeEnc (msBase pllBase : Byte) (e : BandEntry) (offs corr : Nat) (s : State) :
    configureTone msBase pllBase e offs corr (takeEnc x s) =
      (configureTone msBase pllBase e offs corr s).map (takeEnc x) id := by
  simp only [configureTone, configureDivider_takeEnc]
  rcases configureDivider msBase Config.msAMin Config.msAMax e.msDiv 0 1 s with ⟨t, code⟩
  cases code with
  | ok => exact configureDivider_takeEnc x ..
  | _ => rfl

variable {s t : State}

theorem endWith_takeEnc {e : ErrCode} {u : State} :
    endWith e u = .next t → endWith e (takeEnc x u) = .next (endState t.err (takeEnc x t)) := by
  rintro ⟨⟩
  rfl

/-- A procedure that carries the ENC unit's part along gives an operation that does. -/
theorem endWith_procedure_takeEnc {p q : State × ErrCode} (hq : q = p.map (takeEnc x) id) :
    endWith p.2 p.1 = .next t → endWith q.2 q.1 = .next (endState t.err (takeEnc x t)) :=
  hq ▸ endWith_takeEnc x

theorem execPllcfg_takeEnc (pll : Bit) :
    execPllcfg pll s = .next t → execPllcfg pll (takeEnc x s) = .next (endState t.err (takeEnc x t)) := by
  have hoperands : ratioOperands (takeEnc x s) = ratioOperands s := rfl
  unfold execPllcfg
  rw [hoperands]
  cases ratioOperands s with
  | none => exact endWith_takeEnc x
  | some ratio => exact endWith_procedure_takeEnc x (configureDivider_takeEnc x ..)

theorem execMscfg_takeEnc (ch : BitVec 2) :
    execMscfg ch s = .next t → execMscfg ch (takeEnc x s) = .next (endState t.err (takeEnc x t)) := by
  have hbase : msBaseOf (takeEnc x s).cfg ch = msBaseOf s.cfg ch := rfl
  have hoperands : ratioOperands (takeEnc x s) = ratioOperands s := rfl
  unfold execMscfg
  rw [hbase, hoperands]
  cases msBaseOf s.cfg ch with
  | none => exact endWith_takeEnc x
  | some base =>
    cases ratioOperands s with
    | none => exact endWith_takeEnc x
    | some ratio => exact endWith_procedure_takeEnc x (configureDivider_takeEnc x ..)

theorem execDrvcfg_takeEnc (ch : BitVec 2) :
    execDrvcfg ch s = .next t → execDrvcfg ch (takeEnc x s) = .next (endState t.err (takeEnc x t)) := by
  have hreg : clkCtrlOf (takeEnc x s).cfg ch = clkCtrlOf s.cfg ch := rfl
  have hdrvop : (takeEnc x s).drvop = s.drvop := rfl
  unfold execDrvcfg
  rw [hreg, hdrvop]
  cases clkCtrlOf s.cfg ch with
  | none => exact endWith_takeEnc x
  | some reg =>
    cases s.drvop with
    | none => exact endWith_takeEnc x
    | some d => exact endWith_procedure_takeEnc x (configureDriver_takeEnc x ..)

theorem execTone_takeEnc (ch : BitVec 2) (pll : Bit) :
    execTone ch pll s = .next t → execTone ch pll (takeEnc x s) = .next (endState t.err (takeEnc x t)) := by
  have hcfg : (takeEnc x s).cfg = s.cfg := rfl
  have hoperands : toneOperands (takeEnc x s) = toneOperands s := rfl
  unfold execTone
  rw [hcfg, hoperands]
  cases msBaseOf s.cfg ch with
  | none => exact endWith_takeEnc x
  | some msBase =>
    rcases toneOperands s with _ | ⟨band, offs, corr⟩
    · exact endWith_takeEnc x
    · dsimp only
      cases bandLookup s.cfg band with
      | none => exact endWith_takeEnc x
      | some e => exact endWith_procedure_takeEnc x (configureTone_takeEnc x ..)

theorem exec_takeEnc {j : Instr} (hj : isEnc j = false) (h : exec j s = .next t) :
    exec j (takeEnc x s) = .next (endState t.err (takeEnc x t)) := by
  cases j with
  | pllcfg pll => exact execPllcfg_takeEnc x pll h
  | mscfg ch => exact execMscfg_takeEnc x ch h
  | drvcfg ch => exact execDrvcfg_takeEnc x ch h
  | tone ch pll => exact execTone_takeEnc x ch pll h
  | pack | conv | ilv | merge | encode | brev => cases hj

end

/-- Settles O53: after the other unit's operation the state differs from `s` in that unit's part alone, so each
operation does what it does in `s`, and the two parts are disjoint. -/
theorem unitsCommute : Obligations.UnitsCommute := by
  intro i j s hi hj
  obtain ⟨t, ht, -⟩ := exec_effect i s
  obtain ⟨t', ht', -⟩ := exec_effect j s
  have henc : takeEnc t s = t := (eq_takeEnc_of_exec hi ht).symm
  have hsyn : takeSyn t' s = t' := (eq_takeSyn_of_exec hj ht').symm
  have hjt := exec_takeEnc t hj ht'
  have hit := exec_takeSyn t' hi ht
  have hends := takeEnc_takeSyn t t' s
  rw [henc] at hjt hends
  rw [hsyn] at hit hends
  exact ⟨t, _, t', _, ht, hjt, ht', hit, hends, rfl, rfl⟩

/-! ### Every operation ends (70_reset_and_hazards.md R224) -/

/-- Every effect is the end of the operation. -/
theorem Effect.busy_eq_false {i : Instr} {s t : State} (h : Effect i s t) : t.busy = false := by
  cases h <;> rfl

theorem exec_ends (i : Instr) (s : State) : ∃ t, exec i s = .next t ∧ t.busy = false := by
  obtain ⟨t, hexec, heff⟩ := exec_effect i s
  exact ⟨t, hexec, heff.busy_eq_false⟩

/-- A command byte is ignored, is illegal, or runs an operation, and each has a next state. -/
theorem exists_next_of_command (v : Byte) (s : State) : ∃ t, command v s = .next t := by
  by_cases hstopped : s.err = .busFault
  · exact ⟨s, command_stopped hstopped v⟩
  cases hdecode : decode v with
  | error e => exact ⟨_, command_illegal hstopped hdecode⟩
  | ok i =>
    obtain ⟨t, hexec, -⟩ := exec_ends i (setBusy s)
    exact ⟨t, (command_exec hstopped hdecode).trans hexec⟩

theorem exists_next_of_hostWrite (n : BitVec 12) (v : Nat) (s : State) : ∃ t, hostWrite n v s = .next t := by
  cases hname : RegName.ofNumber n with
  | none => exact ⟨s, hostWrite_reserved hname v s⟩
  | some r =>
    by_cases hcmd : r = .cmd
    · obtain rfl : n = 0x000 := (number_of_ofNumber hname).symm.trans (congrArg RegName.number hcmd)
      exact exists_next_of_command (BitVec.ofNat 8 v) s
    · exact ⟨_, hostWrite_reg hname hcmd v s⟩

/-- Settles O17: the effects of an operation, and the cases of what the outside world can do to an idle block. -/
theorem everyOperationEnds : Obligations.EveryOperationEnds := by
  refine ⟨exec_ends, fun s hidle => ?_⟩
  cases hin : s.inputs with
  | nil => exact ⟨s, step_idle hin⟩
  | cons input rest =>
    cases input with
    | write n v =>
      rw [step_write hin hidle]
      exact exists_next_of_hostWrite n v _
    | read n => exact ⟨_, step_read hin hidle⟩
    | reset => exact ⟨_, step_reset hin hidle⟩

/-! ### Staleness (70_reset_and_hazards.md R216) -/

/-- A host write of an operand of `PACK` reaches no buffer an ENC operation writes. -/
theorem writeReg_packOperand {r : RegName}
    (hr : r = .pwr ∨ r = .clen ∨ (∃ k, r = .call k) ∨ ∃ k, r = .grid k) (v : Nat) (s : State) :
    (writeReg r v s).msg = s.msg ∧ (writeReg r v s).fec = s.fec ∧ (writeReg r v s).ilv = s.ilv := by
  rcases hr with rfl | rfl | ⟨k, rfl⟩ | ⟨k, rfl⟩ <;> exact ⟨rfl, rfl, rfl⟩

/-- Settles O55: each flag is the AND of written-bits that the write leaves alone. -/
theorem stalenessIsNotTracked : Obligations.StalenessIsNotTracked := by
  intro s t r v rest hin hidle hr hstep
  have hcmd : r ≠ .cmd := by rcases hr with rfl | rfl | ⟨k, rfl⟩ | ⟨k, rfl⟩ <;> nofun
  rw [step_write hin hidle, hostWrite_reg (ofNumber_number r) hcmd] at hstep
  cases hstep
  obtain ⟨hmsg, hfec, hilv⟩ := writeReg_packOperand hr v (setInputs rest s)
  obtain ⟨-, -, -, -, -, -, -, -, -, -, hsym⟩ := writeReg_results r v (setInputs rest s)
  obtain ⟨herr, -⟩ := writeReg_others r v (setInputs rest s)
  exact ⟨hsym, congrArg allWritten hmsg, congrArg allWritten hfec, congrArg allWritten hilv, congrArg allWritten hsym,
    herr⟩

end Machine
end Sys2Proof
end

section
/-! PROOFS. The command byte, both ways (30_encoding.md sections 1 and 2): `decode` and `encode` are inverse to each
other on the well-formed instructions. -/

namespace Sys2Proof
namespace Machine

open Sys2Proof.Spec

/-- Every row of the opcode map holds a well-formed instruction beside its encoding (R61, R63). -/
theorem wf_and_encode_of_mem_opcodeMap : ∀ row ∈ opcodeMap, row.2.wf = true ∧ encode row.2 = row.1 := by decide

theorem mem_opcodeMap_of_decode {b : Byte} {i : Instr} (h : decode b = .ok i) : (b, i) ∈ opcodeMap := by
  have hlookup : opcodeMap.lookup b = some i := by rw [← decoderIsTheOpcodeMap b, h]; rfl
  obtain ⟨before, after, hsplit, -⟩ := List.lookup_eq_some_iff.mp hlookup
  rw [hsplit]
  exact List.mem_append_right before List.mem_cons_self

/-- The premise shuts out channel 3, whose byte is no command (assumption log 12). -/
theorem decode_encode {i : Instr} (hwf : i.wf = true) : decode (encode i) = .ok i := by
  cases i with
  | pack | conv | ilv | merge | encode | brev => rfl
  | pllcfg pll => revert pll; decide
  | mscfg ch | drvcfg ch => revert ch; decide
  | tone ch pll => revert ch pll; decide

/-- Settles O2: what a byte decodes to stands beside it in the opcode map, and the decoder undoes the encoder. -/
theorem decodeAndEncodeAgree : Obligations.DecodeAndEncodeAgree := by
  intro b i
  constructor
  · intro hdecode
    exact wf_and_encode_of_mem_opcodeMap (b, i) (mem_opcodeMap_of_decode hdecode)
  · rintro ⟨hwf, rfl⟩
    exact decode_encode hwf

end Machine
end Sys2Proof
end
